-- ==== Sys2Proof/Word.lean ====
section
/-! DEFINITION. The word types of PSFD: a byte and the 16-bit halfword of `data_size` and `checksum`
(00_scope.md R22). Byte order and sign extension stand in Decode.lean. -/

namespace Sys2Proof

/-- A byte is 8 bits, bit 0 least significant (R22). Also the type of the three 8-bit registers (R33 to R35). -/
abbrev Byte := BitVec 8

/-- The unsigned 16-bit fields (`u16` of R22). -/
abbrev Half := BitVec 16

end Sys2Proof
end

