-- ==== Sys2Proof/Config.lean ====
section
/-! DEFINITION. What is fixed for the life of a PSFD (00_scope.md section 3, 10_state.md R36): the hardwired numbers, the
configuration arguments as plain data, and the free values, which have no body so that no proof can see what they are. -/

namespace Sys2Proof

/-- `PKT_LEN` (R10). -/
def pktLen : Nat := 40
/-- `MAX_FACES` (R11). -/
def maxFaces : Nat := 4
/-- `FACE_REC_LEN` (R12). -/
def faceRecLen : Nat := 8
/-- `HYST_N` (R14). -/
def hystN : Nat := 5
/-- `COUNTDOWN_N` (R15). -/
def countdownN : Nat := 20

/-- `GEOM_LAYOUT` (R17): how face-record bytes 3 and 4 are named. -/
inductive GeomLayout where
  | wh  -- 0: box_width, box_height
  | rb  -- 1: box_right, box_bottom
deriving DecidableEq, Repr

/-- `CRC16` (R18) as plain data. DESIGN CHOICE (log 2): the spec's default algorithm of R113, or an open function about
which nothing is known. -/
inductive Crc16Arg where
  | ccittFalse
  | other (k : Nat)
deriving DecidableEq, Repr

/-- The configuration arguments at the widths of the table of 00_scope.md section 3. -/
structure Config where
  confThreshold : Byte
  maxIds        : Byte
  geomLayout    : GeomLayout
  crc16         : Crc16Arg
  devAddr       : BitVec 7
  calReg        : Byte
deriving DecidableEq, Repr

/-- The arguments as given when a PSFD is built, before their ranges are checked (R36). -/
structure ConfigArgs where
  confThreshold : Byte
  maxIds        : Nat
  geomLayout    : Nat
  crc16         : Crc16Arg
  devAddr       : Nat
  calReg        : Byte
deriving DecidableEq, Repr

/-- The configuration of the spec's test vectors (95_test_vectors.md section 1). `CONF_THRESHOLD` is the source's 95 (R13);
PRESUMED (log 1): 7, 0x62, 0x04 and WH, which the spec has from general knowledge; DESIGN CHOICE (log 1): the default CRC. -/
def Config.ofVectors : Config where
  confThreshold := 95
  maxIds        := 7
  geomLayout    := .wh
  crc16         := .ccittFalse
  devAddr       := 0x62
  calReg        := 0x04

/-- FREE VALUE (U7, log 2): an open `CRC16` argument, one for each index. -/
opaque Config.openCrc16 : Nat → List Byte → Half

/-- FREE VALUE (R179, log 3): whether the environment asserts reset in cycle `n`. -/
opaque Config.envRst : Nat → Bool
/-- FREE VALUE (U16, log 3): the success flag of the bus read of cycle `n`. -/
opaque Config.envRdOk : Nat → Bool
/-- FREE VALUE (U16, log 3): the byte count of the bus read of cycle `n`. -/
opaque Config.envRdCount : Nat → Nat
/-- FREE VALUE (U16, U20, log 3): the byte at an offset of the bus read of cycle `n`. -/
opaque Config.envByte : Nat → Nat → Byte
/-- FREE VALUE (U17, log 3): the success of a bus write of cycle `n`, which no rule reads. -/
opaque Config.envWrOk : Nat → Bool

end Sys2Proof
end

