-- ==== Sys2Proof/Syntax.lean ====
section
/-! DEFINITION. The operations of PSFD: one constructor of `Instr` for each row of opcode_table.json, with the packet
(30_encoding.md R81) as the operand of the PKT40 rows and the two payload bytes as those of CMD2 (R93). -/

namespace Sys2Proof

/-- One 8-byte face record as it stands on the wire (R86). -/
structure RawFace where
  boxConfidence : Byte
  boxLeft       : Byte
  boxTop        : Byte
  g3            : Byte
  g4            : Byte
  idConfidence  : Byte
  id            : Byte
  isFacing      : Byte
deriving DecidableEq, Repr

/-- A packet by fields (R81): every one of its 40 bytes is in exactly one field. -/
structure Packet where
  reserved0 : Byte
  reserved1 : Byte
  dataSize  : Half
  numFaces  : Byte
  slot0     : RawFace
  slot1     : RawFace
  slot2     : RawFace
  slot3     : RawFace
  gap       : Byte
  checksum  : Half
deriving DecidableEq, Repr

/-- What the environment presents for one cycle (10_state.md R40's table). `rdData` lists the bytes given, offset 0 first;
an offset not given is POISON (R100). -/
structure CycleInput where
  rst     : Bool
  rdOk    : Bool
  rdCount : Nat
  rdData  : List Byte
  wrOk    : Bool
deriving DecidableEq, Repr

/-- The rows of opcode_table.json, in the table's order. -/
inductive Instr where
  | rst
  | cycShort (rdOk : Bool) (rdCount : Nat)
  | decN0 (p : Packet)
  | decN1 (p : Packet)
  | decN2 (p : Packet)
  | decN3 (p : Packet)
  | decN4 (p : Packet)
  | decErr5 (p : Packet)
  | decErr6_7 (p : Packet)
  | decErr8_15 (p : Packet)
  | decErr16_31 (p : Packet)
  | decErr32_63 (p : Packet)
  | decErr64_127 (p : Packet)
  | decErrNeg (p : Packet)
  | crcVerify (p : Packet)
  | ctrlCountdown
  | ctrlEvalQualify
  | ctrlEvalFail
  | ctrlTrigger
  | cmdCalBegin (reg val : Byte)
deriving DecidableEq, Repr

end Sys2Proof
end

