-- ==== Sys2Proof/WellFormed.lean ====
section
/-! DEFINITION. When an `Instr` is one the encoding can express, read off the VALUES column of 30_encoding.md R91 (the
decoder reads the bit PATTERNS; that the two agree is a theorem). -/

namespace Sys2Proof

/-- `num_faces` read as a number in `lo..hi` (R91, R83). -/
def Packet.facesIn (p : Packet) (lo hi : Int) : Bool :=
  decide (lo ≤ p.numFaces.toInt ∧ p.numFaces.toInt ≤ hi)

/-- The operands fit the row: the face count is one of the row's values (R91), and a short read is not a full one (R90). -/
def WellFormed : Instr → Bool
  | .rst => true
  | .cycShort rdOk rdCount => !(rdOk && rdCount == pktLen)
  | .decN0 p => p.facesIn 0 0
  | .decN1 p => p.facesIn 1 1
  | .decN2 p => p.facesIn 2 2
  | .decN3 p => p.facesIn 3 3
  | .decN4 p => p.facesIn 4 4
  | .decErr5 p => p.facesIn 5 5
  | .decErr6_7 p => p.facesIn 6 7
  | .decErr8_15 p => p.facesIn 8 15
  | .decErr16_31 p => p.facesIn 16 31
  | .decErr32_63 p => p.facesIn 32 63
  | .decErr64_127 p => p.facesIn 64 127
  | .decErrNeg p => p.facesIn (-128) (-1)
  | .crcVerify _ => true
  | .ctrlCountdown => true
  | .ctrlEvalQualify => true
  | .ctrlEvalFail => true
  | .ctrlTrigger => true
  | .cmdCalBegin _ _ => true

end Sys2Proof
end

