-- ==== Sys2Proof/Decode.lean ====
section
/-! DEFINITION. From what is presented to PSFD to an operation, and back: byte order and sign extension (00_scope.md R23),
the packet's fields (30_encoding.md R81, R88), the rows of opcode_table.json as mask and match (R91), the classification of
a cycle (R90), the selection of a controller operation (R92), the two bytes of CMD2 (R93), and the encoder. -/

namespace Sys2Proof

/-- `LE16` of R23: the byte at the lower offset is bits 7:0 (R63). -/
def le16 (lo hi : Byte) : Half := lo.setWidth 16 ||| (hi.setWidth 16 <<< 8)

/-- Bits 7:0, stored at the lower offset (R63). -/
def loByte (h : Half) : Byte := h.setWidth 8

/-- Bits 15:8, stored at the higher offset (R63). -/
def hiByte (h : Half) : Byte := (h >>> 8).setWidth 8

/-- `sext_8` of R23. -/
def sext8 (b : Byte) : Int := if b.toNat < 0x80 then (b.toNat : Int) else (b.toNat : Int) - 256

/-- Why the decoder gives no operation. Each is SAFE: the model stops where the spec gives no operation. -/
inductive DecodeReject where
  /-- A packet of other than 40 bytes (R122), or a CMD2 payload of other than two (R93); raised by `decode`. -/
  | wrongLength (n : Nat)
  /-- No row of the table matches; never raised, since the twelve patterns cover all bytes (R91). -/
  | noRow
  /-- No controller operation is selected (R92); raised by `decode` outside a cycle of outcome FRAME, or where no trigger follows. -/
  | notSelected
deriving DecidableEq, Repr

/-- `base(k) = 5 + 8*k` (R85). -/
def slotBase (k : Nat) : Nat := 5 + faceRecLen * k

/-- The byte at an offset of a byte list; used only below the list's length. -/
def byteAt (bs : List Byte) (i : Nat) : Byte := bs.getD i 0

/-- The face record at base `b` (R86, R88). -/
def rawFaceAt (bs : List Byte) (b : Nat) : RawFace where
  boxConfidence := byteAt bs b
  boxLeft       := byteAt bs (b + 1)
  boxTop        := byteAt bs (b + 2)
  g3            := byteAt bs (b + 3)
  g4            := byteAt bs (b + 4)
  idConfidence  := byteAt bs (b + 5)
  id            := byteAt bs (b + 6)
  isFacing      := byteAt bs (b + 7)

/-- Each field read at its offset (R81, R88). -/
def packetFields (bs : List Byte) : Packet where
  reserved0 := byteAt bs 0
  reserved1 := byteAt bs 1
  dataSize  := le16 (byteAt bs 2) (byteAt bs 3)
  numFaces  := byteAt bs 4
  slot0     := rawFaceAt bs (slotBase 0)
  slot1     := rawFaceAt bs (slotBase 1)
  slot2     := rawFaceAt bs (slotBase 2)
  slot3     := rawFaceAt bs (slotBase 3)
  gap       := byteAt bs 37
  checksum  := le16 (byteAt bs 38) (byteAt bs 39)

/-- The fields of 40 bytes (R81); any other length is refused (R122). -/
def parsePacket (bs : List Byte) : Except DecodeReject Packet :=
  if bs.length = pktLen then .ok (packetFields bs) else .error (.wrongLength bs.length)

/-- One PKT40 row of opcode_table.json: it is selected when `num_faces` and the mask give the match. -/
structure Row where
  mask  : Byte
  value : Byte
  make  : Packet → Instr

/-- The row's match on the byte `num_faces` (R91). -/
def Row.hits (r : Row) (b : Byte) : Bool := b &&& r.mask == r.value

/-- The rows whose outcome is FRAME (R115 to R119). -/
def frameRows : List Row :=
  [⟨0xFF, 0x00, .decN0⟩, ⟨0xFF, 0x01, .decN1⟩, ⟨0xFF, 0x02, .decN2⟩, ⟨0xFF, 0x03, .decN3⟩, ⟨0xFF, 0x04, .decN4⟩]

/-- The seven patterns of the face-count error (R120). -/
def errorRows : List Row :=
  [⟨0xFF, 0x05, .decErr5⟩, ⟨0xFE, 0x06, .decErr6_7⟩, ⟨0xF8, 0x08, .decErr8_15⟩, ⟨0xF0, 0x10, .decErr16_31⟩,
   ⟨0xE0, 0x20, .decErr32_63⟩, ⟨0xC0, 0x40, .decErr64_127⟩, ⟨0x80, 0x80, .decErrNeg⟩]

/-- The twelve PKT40 class rows. -/
def pktRows : List Row := frameRows ++ errorRows

/-- The class of a packet: the first row that matches (R91; at most one does). -/
def classify (p : Packet) : Except DecodeReject Instr :=
  match pktRows.find? (fun r => r.hits p.numFaces) with
  | some r => .ok (r.make p)
  | none => .error .noRow

/-- What a decoder of PSFD is given, one constructor for each format of opcode_table.json (R80): the signals of a cycle with
the bytes of its read; a packet for the checksum verifier; the signals that select a controller operation (R92), where
`afterQualify` says that CTRL.EVAL.QUALIFY was selected and `runLen` is the register before it; the payload of a CMD2. -/
inductive Presented where
  | cycle (rst rdOk : Bool) (rdCount : Nat) (bytes : List Byte)
  | verify (bytes : List Byte)
  | ctrl (isFrame : Bool) (calRemaining : Byte) (q : Bool) (runLen : Byte) (afterQualify : Bool)
  | cmd2 (bytes : List Byte)
deriving DecidableEq, Repr

/-- The controller operation selected (R92, R141). -/
def selectCtrl (isFrame : Bool) (calRemaining : Byte) (q : Bool) (runLen : Byte) (afterQualify : Bool) :
    Except DecodeReject Instr :=
  if !isFrame then .error .notSelected
  else if afterQualify then (if hystN ≤ runLen.toNat + 1 then .ok .ctrlTrigger else .error .notSelected)
  else if 0 < calRemaining.toNat then .ok .ctrlCountdown
  else if q then .ok .ctrlEvalQualify
  else .ok .ctrlEvalFail

/-- The decoder, total on everything presented. A cycle is classified in the order of R90. -/
def decode : Presented → Except DecodeReject Instr
  | .cycle rst rdOk rdCount bytes =>
    if rst then .ok .rst
    else if !rdOk || rdCount != pktLen then .ok (.cycShort rdOk rdCount)
    else match parsePacket bytes with
      | .ok p => classify p
      | .error r => .error r
  | .verify bytes =>
    match parsePacket bytes with
    | .ok p => .ok (.crcVerify p)
    | .error r => .error r
  | .ctrl isFrame cal q run aq => selectCtrl isFrame cal q run aq
  | .cmd2 [reg, val] => .ok (.cmdCalBegin reg val)
  | .cmd2 bytes => .error (.wrongLength bytes.length)

/-- The 8 bytes of a face record (R86). -/
def encodeFace (f : RawFace) : List Byte :=
  [f.boxConfidence, f.boxLeft, f.boxTop, f.g3, f.g4, f.idConfidence, f.id, f.isFacing]

/-- The 40 bytes of a packet (R81). -/
def encodePacket (p : Packet) : List Byte :=
  [p.reserved0, p.reserved1, loByte p.dataSize, hiByte p.dataSize, p.numFaces]
    ++ encodeFace p.slot0 ++ encodeFace p.slot1 ++ encodeFace p.slot2 ++ encodeFace p.slot3
    ++ [p.gap, loByte p.checksum, hiByte p.checksum]

/-- A full read of a packet (R90 step 3). -/
def fullRead (p : Packet) : Presented := .cycle false true pktLen (encodePacket p)

/-- The encoder: what is presented for an operation, from the same table. For a controller operation it is a choice of
signals that selects it. -/
def encode : Instr → Presented
  | .rst => .cycle true false 0 []
  | .cycShort rdOk rdCount => .cycle false rdOk rdCount []
  | .decN0 p => fullRead p
  | .decN1 p => fullRead p
  | .decN2 p => fullRead p
  | .decN3 p => fullRead p
  | .decN4 p => fullRead p
  | .decErr5 p => fullRead p
  | .decErr6_7 p => fullRead p
  | .decErr8_15 p => fullRead p
  | .decErr16_31 p => fullRead p
  | .decErr32_63 p => fullRead p
  | .decErr64_127 p => fullRead p
  | .decErrNeg p => fullRead p
  | .crcVerify p => .verify (encodePacket p)
  | .ctrlCountdown => .ctrl true 1 false 0 false
  | .ctrlEvalQualify => .ctrl true 0 true 0 false
  | .ctrlEvalFail => .ctrl true 0 false 0 false
  | .ctrlTrigger => .ctrl true 0 true 4 true
  | .cmdCalBegin reg val => .cmd2 [reg, val]

/-- The face record of eight zero bytes. -/
def RawFace.zero : RawFace := ⟨0, 0, 0, 0, 0, 0, 0, 0⟩

/-- A packet of zeros but for `num_faces`. -/
def Packet.blank (numFaces : Byte) : Packet :=
  ⟨0, 0, 0, numFaces, .zero, .zero, .zero, .zero, 0, 0⟩

/-- Byte `i` of a number whose byte 0 is the least significant. -/
def numByte (w i : Nat) : Byte := BitVec.ofNat 8 (w / 256 ^ i)

/-- A word as opcode_table.json numbers it (log 15): 8 bits are the field `num_faces = W[39:32]` of an otherwise zero packet
(R89); 16 bits are a CMD2 payload, first byte least significant; 320 bits are the packet's bit view `W` of R89. -/
def tableWord (nbits w : Nat) : Option Presented :=
  if nbits = 8 then some (fullRead (Packet.blank (numByte w 0)))
  else if nbits = 16 then some (.cmd2 [numByte w 0, numByte w 1])
  else if nbits = 8 * pktLen then some (.cycle false true pktLen ((List.range pktLen).map (numByte w)))
  else none

/-- The operation the decoder reads from a word as opcode_table.json numbers it. -/
def decodeTableWord (nbits w : Nat) : Option Instr :=
  match tableWord nbits w with
  | some x => (decode x).toOption
  | none => none

end Sys2Proof
end

