-- ==== Sys2Proof/Machine/State.lean ====
section
/-! DEFINITION. The state of PSFD (10_state.md), as plain data: the three persistent registers, the static configuration, the
packet buffer of the current cycle, the output signals of the latest cycle, and the cycles the environment will present. -/

namespace Sys2Proof.Machine

/-- A value that may be POISON: "must never be read" (R37). POISON is the spec's own state of a signal, not a missing value. -/
inductive Sig (α : Type) where
  | poison
  | drives (a : α)
deriving DecidableEq, Repr

/-- One decoded face slot (R37, R88): `id` is the signed value, every other field the unsigned byte. -/
structure FaceRecord where
  boxConfidence : Byte
  boxLeft       : Byte
  boxTop        : Byte
  g3            : Byte
  g4            : Byte
  idConfidence  : Byte
  id            : Int
  isFacing      : Byte
deriving DecidableEq, Repr

/-- The decoded Frame (R37). -/
structure Frame where
  dataSize : Half
  numFaces : Byte
  slot0    : Sig FaceRecord
  slot1    : Sig FaceRecord
  slot2    : Sig FaceRecord
  slot3    : Sig FaceRecord
  checksum : Half
deriving DecidableEq, Repr

/-- The outcome of a cycle (R190). -/
inductive CycleOutcome where
  | frame
  | busUnavailable
  | faceCountOutOfRange
  | reset
deriving DecidableEq, Repr

/-- The controller's phase (R38), derived from the registers. -/
inductive Phase where
  | idle
  | accumulating
  | calibrating
deriving DecidableEq, Repr

/-- A call of a bus collaborator (20_memory.md R61). -/
inductive BusCall where
  | read (dev : BitVec 7) (len : Nat)
  | write (dev : BitVec 7) (reg val : Byte)
deriving DecidableEq, Repr

/-- The packet buffer (R60): the delivered bytes with their offsets, offsets strictly rising. An offset not listed is POISON. -/
abbrev Memory := List Host.Cell

structure State where
  cfg          : Config
  nextUnusedId : Byte
  runLen       : Byte
  calRemaining : Byte
  buf          : Memory
  outcome      : CycleOutcome
  frame        : Sig Frame
  crcOk        : Sig Bool
  cmdValid     : Bool
  cmdDev       : Sig (BitVec 7)
  cmdReg       : Sig Byte
  cmdVal       : Sig Byte
  calls        : List BusCall
  inputs       : List CycleInput
  cycleNo      : Nat
deriving DecidableEq, Repr

/-- The model faults of R199: a POISON value is read. All SAFE: no value is given where the spec gives none. -/
inductive Fault where
  /-- `rd_data` at an offset that was not delivered (U3); raised by `Memory.read`. -/
  | poisonByte (offset : Nat)
  /-- An offset of the packet buffer at or above 40 (R60); raised by `Memory.read`. -/
  | noSuchOffset (offset : Nat)
  /-- A field of `slot[k]`, `k >= num_faces` (U1, R215); raised by `State.readSlot` and `triggerPredicate`. -/
  | poisonSlot (k : Nat)
  /-- The frame of a cycle whose outcome is not FRAME (U21); raised by `State.readFrame` and `triggerPredicate`. -/
  | poisonFrame
  /-- `crc_ok` of a cycle without a full read (U21); raised by `State.readCrcOk`. -/
  | poisonCrcOk
  /-- A command field while `cmd_valid = 0` (U21); raised by `State.readCmd`. -/
  | poisonCommand
deriving DecidableEq, Repr

/-- The steps the model does not run. All SAFE: nothing is claimed of them. -/
inductive Refusal where
  /-- An operation without a meaning; the arms of `exec` only. -/
  | notModelled (mnemonic : String)
  /-- A configuration outside the legal ranges (R36, U22); raised by `powerUp` and `cycle`. -/
  | illegalConfig
  /-- A start state that violates R44 (R45, U23); raised by `cycle`. -/
  | illegalStart
  /-- A controller operation where the table's match does not select it (R92, log 8); raised by the four CTRL meanings. -/
  | notSelected
  /-- The decoder gives no operation: a direct decode call on other than 40 bytes (R122, U2); raised by `decodeCall`. -/
  | undecodable (r : DecodeReject)
deriving DecidableEq, Repr

/-- The reset state for a configuration (R43), with the outputs of a reset cycle (R211, R212; log 10). -/
def State.ofConfig (c : Config) : State where
  cfg          := c
  nextUnusedId := 1
  runLen       := 0
  calRemaining := 0
  buf          := []
  outcome      := .reset
  frame        := .poison
  crcOk        := .poison
  cmdValid     := false
  cmdDev       := .poison
  cmdReg       := .poison
  cmdVal       := .poison
  calls        := []
  inputs       := []
  cycleNo      := 0

/-- The machine right after reset, with the configuration of the spec's vectors (log 1). -/
def State.reset : State := State.ofConfig Config.ofVectors

end Sys2Proof.Machine
end

