-- ==== Sys2Proof/Machine/Ops.lean ====
section
/-! DEFINITION. The named operations: the packet buffer (20_memory.md R60), the start of a cycle (42_poll_cycle.md R171,
R172), the report of an outcome, the raising of an error (00_scope.md R23), the bus write (R176), the registers' writes, the
configuration check (10_state.md R36) and the legal start states (R44, R45). -/

namespace Sys2Proof

/-- The bytes of `rd_data` below `rd_count`; the others are POISON (R40's table). -/
def CycleInput.delivered (inp : CycleInput) : List Byte := inp.rdData.take inp.rdCount

/-- A full read, which reaches the decoder (R99, R173). -/
def CycleInput.full (inp : CycleInput) : Bool := !inp.rst && inp.rdOk && inp.rdCount == pktLen

/-- The ranges of R36 that the widths of `Config` do not already keep. -/
def Config.legal (c : Config) : Bool := decide (1 ≤ c.maxIds.toNat)

end Sys2Proof

namespace Sys2Proof.Machine

/-- One operation, then the next, stopping at the first fault or refusal. -/
def andThen (o : Host.Outcome State Fault Refusal) (k : State → Host.Outcome State Fault Refusal) :
    Host.Outcome State Fault Refusal :=
  match o with
  | .next s => k s
  | .fault f => .fault f
  | .refused r => .refused r

/-! The packet buffer. -/

/-- The canonical form: offsets strictly rising from `lo`, all below 40. No value stands for an unlisted offset (log 5). -/
def Memory.wfFrom : Nat → Memory → Bool
  | _, [] => true
  | lo, (a, _) :: m => decide (lo ≤ a) && decide (a < pktLen) && Memory.wfFrom (a + 1) m

def Memory.wf (m : Memory) : Bool := Memory.wfFrom 0 m

/-- The byte listed at an offset, if one is. -/
def Memory.find : Memory → Nat → Option Byte
  | [], _ => none
  | (a, b) :: m, x => if a = x then some b else Memory.find m x

/-- `Buf[i]` (R23). An offset that was not delivered is POISON, one at or above 40 does not exist. -/
def Memory.read (m : Memory) (a : Nat) : Except Fault Byte :=
  if pktLen ≤ a then .error (.noSuchOffset a)
  else match Memory.find m a with
    | some b => .ok b
    | none => .error (.poisonByte a)

/-- `Buf[a] ++ Buf[a+1] ++ …`, `n` bytes. -/
def Memory.readRange (m : Memory) : Nat → Nat → Except Fault (List Byte)
  | _, 0 => .ok []
  | a, n + 1 =>
    match Memory.read m a with
    | .error f => .error f
    | .ok b =>
      match Memory.readRange m (a + 1) n with
      | .error f => .error f
      | .ok bs => .ok (b :: bs)

/-- Bytes laid out from an offset on. -/
def Memory.fillFrom : Nat → List Byte → Memory
  | _, [] => []
  | a, b :: bs => (a, b) :: Memory.fillFrom (a + 1) bs

/-- The buffer as a bus read of these bytes fills it whole (R60): never past its 40 bytes. -/
def Memory.fill (bs : List Byte) : Memory := Memory.fillFrom 0 (bs.take pktLen)

/-! The inputs of a cycle. -/

/-- The cycle the environment presents when nothing stands in `inputs`: FREE VALUES (R69, R179, U16, U17; log 3). -/
def freeInput (n : Nat) : CycleInput where
  rst     := Config.envRst n
  rdOk    := Config.envRdOk n
  rdCount := Config.envRdCount n
  rdData  := (List.range pktLen).map (Config.envByte n)
  wrOk    := Config.envWrOk n

/-- The cycle presented next. -/
def State.nextInput (s : State) : CycleInput :=
  match s.inputs with
  | inp :: _ => inp
  | [] => freeInput s.cycleNo

/-- The presented cycle is taken. -/
def State.popInput (s : State) : State := { s with inputs := s.inputs.tail, cycleNo := s.cycleNo + 1 }

/-- The start of a cycle (R171): the outputs of the last cycle are gone, and, unless it is a reset cycle (R210), the read
`read(DEV_ADDR, 40)` is issued (R172) and its bytes are in the buffer. -/
def State.present (inp : CycleInput) (s : State) : State :=
  { s with
    buf      := if inp.rst then [] else Memory.fill inp.delivered
    frame    := .poison
    crcOk    := .poison
    cmdValid := false
    cmdDev   := .poison
    cmdReg   := .poison
    cmdVal   := .poison
    calls    := if inp.rst then [] else [.read s.cfg.devAddr pktLen] }

/-- The packet does not outlive its cycle (R31). -/
def State.discardBuf (s : State) : State := { s with buf := [] }

/-! Outcomes. -/

/-- The cycle's outcome and frame output (R175, R190). -/
def State.report (o : CycleOutcome) (f : Sig Frame) (s : State) : State := { s with outcome := o, frame := f }

/-- `raise E` of R23, the one shared error: the cycle ends with outcome `E`, the frame POISON, and no register write. PSFD has
no trap: no state is saved, no mode changes, nothing returns (R196, R197). -/
def State.raise (o : CycleOutcome) (s : State) : State := s.report o .poison

/-- The output `crc_ok` (R113). -/
def State.driveCrc (b : Bool) (s : State) : State := { s with crcOk := .drives b }

/-- `emit Write(DEV_ADDR, reg, val)` (R23, R93, R176): the command outputs are driven and the call is issued. -/
def State.issueWrite (reg val : Byte) (s : State) : State :=
  { s with
    cmdValid := true
    cmdDev   := .drives s.cfg.devAddr
    cmdReg   := .drives reg
    cmdVal   := .drives val
    calls    := s.calls ++ [.write s.cfg.devAddr reg val] }

/-- `cmd_valid = 0`, the command fields POISON (R40). -/
def State.noCommand (s : State) : State :=
  { s with cmdValid := false, cmdDev := .poison, cmdReg := .poison, cmdVal := .poison }

/-- `crc_ok` POISON (R40, R173). -/
def State.undriveCrc (s : State) : State := { s with crcOk := .poison }

/-- The three registers are written together at the end of the step (R23). -/
def State.setRegs (nextUnusedId runLen calRemaining : Byte) (s : State) : State :=
  { s with nextUnusedId := nextUnusedId, runLen := runLen, calRemaining := calRemaining }

/-! What a consumer may read (R215, R40): a POISON value is a model fault. -/

def State.readFrame (s : State) : Except Fault Frame :=
  match s.frame with
  | .drives f => .ok f
  | .poison => .error .poisonFrame

/-- `slot[k]`; the packet always carries four (R27). -/
def Frame.slot (f : Frame) (k : Fin 4) : Sig FaceRecord :=
  match k with
  | 0 => f.slot0
  | 1 => f.slot1
  | 2 => f.slot2
  | 3 => f.slot3

def State.readSlot (s : State) (k : Fin 4) : Except Fault FaceRecord :=
  match s.readFrame with
  | .error e => .error e
  | .ok f =>
    match f.slot k with
    | .drives r => .ok r
    | .poison => .error (.poisonSlot k.val)

def State.readCrcOk (s : State) : Except Fault Bool :=
  match s.crcOk with
  | .drives b => .ok b
  | .poison => .error .poisonCrcOk

/-- The command `(cmd_dev, cmd_reg, cmd_val)`. -/
def State.readCmd (s : State) : Except Fault (BitVec 7 × Byte × Byte) :=
  match s.cmdDev, s.cmdReg, s.cmdVal with
  | .drives d, .drives r, .drives v => .ok (d, r, v)
  | _, _, _ => .error .poisonCommand

/-! The configuration and the start state. -/

/-- `GEOM_LAYOUT` from its number (R17). -/
def geomOfCode : Nat → Option GeomLayout
  | 0 => some .wh
  | 1 => some .rb
  | _ => none

/-- The configuration check before the first cycle (R36, R214, D26), then the reset state (R212). -/
def powerUp (a : ConfigArgs) : Host.Outcome State Fault Refusal :=
  match geomOfCode a.geomLayout with
  | none => .refused .illegalConfig
  | some g =>
    if 1 ≤ a.maxIds ∧ a.maxIds ≤ 255 ∧ a.devAddr ≤ 0x7F then
      .next (State.ofConfig
        { confThreshold := a.confThreshold
          maxIds        := BitVec.ofNat 8 a.maxIds
          geomLayout    := g
          crc16         := a.crc16
          devAddr       := BitVec.ofNat 7 a.devAddr
          calReg        := a.calReg })
    else .refused .illegalConfig

/-- The invariants of R44, which a start state satisfies or is refused (R45). -/
def State.legalStart (s : State) : Bool :=
  decide (1 ≤ s.nextUnusedId.toNat) && decide (s.nextUnusedId.toNat ≤ s.cfg.maxIds.toNat)
    && decide (s.runLen.toNat ≤ hystN - 1) && decide (s.calRemaining.toNat ≤ countdownN)
    && (decide (s.calRemaining.toNat = 0) || decide (s.runLen.toNat = 0))

end Sys2Proof.Machine
end

