-- ==== Sys2Proof/Machine/Operands.lean ====
section
/-! DEFINITION. The operands the operations work on: the frame assembled from a packet (30_encoding.md R88, 40_decoder.md
R110, R114), the decoder's own contract (R110, R122), the names of the geometry bytes (R98), and the trigger predicate
(41_controller.md R143, R144). -/

namespace Sys2Proof.Machine

/-- A face record decoded (R88): `id` is sign-extended, every other field is the byte. -/
def decodeFace (r : RawFace) : FaceRecord where
  boxConfidence := r.boxConfidence
  boxLeft       := r.boxLeft
  boxTop        := r.boxTop
  g3            := r.g3
  g4            := r.g4
  idConfidence  := r.idConfidence
  id            := sext8 r.id
  isFacing      := r.isFacing

/-- `slot[k] <- (k < nf) ? rec : POISON` (R110, R114). -/
def slotSig (k nf : Nat) (r : RawFace) : Sig FaceRecord :=
  if k < nf then .drives (decodeFace r) else .poison

/-- The Frame of a packet with `nf` meaningful slots (R110). -/
def frameOf (nf : Nat) (p : Packet) : Frame where
  dataSize := p.dataSize
  numFaces := BitVec.ofNat 8 nf
  slot0    := slotSig 0 nf p.slot0
  slot1    := slotSig 1 nf p.slot1
  slot2    := slotSig 2 nf p.slot2
  slot3    := slotSig 3 nf p.slot3
  checksum := p.checksum

/-- The decoder's one error (R112). -/
inductive DecodeError where
  | faceCountOutOfRange
deriving DecidableEq, Repr

/-- DECODE on a packet's fields, the pseudocode of R110: `num_faces` is read signed and must be in 0..4. -/
def decodeFrame (p : Packet) : Except DecodeError Frame :=
  let nf := sext8 p.numFaces
  if nf < 0 ∨ (maxFaces : Int) < nf then .error .faceCountOutOfRange
  else .ok (frameOf nf.toNat p)

/-- The contract `decode(raw: bytes[40]) -> Result<Frame, DecodeError>` called directly: other lengths are refused (R122). -/
def decodeCall (raw : List Byte) : Host.Outcome (Except DecodeError Frame) Fault Refusal :=
  match parsePacket raw with
  | .error r => .refused (.undecodable r)
  | .ok p => .next (decodeFrame p)

/-- The names of a record's bytes 3 and 4 under a layout (R86, R98): nothing is computed. -/
inductive Geometry where
  | wh (boxWidth boxHeight : Byte)
  | rb (boxRight boxBottom : Byte)
deriving DecidableEq, Repr

def FaceRecord.geometry (r : FaceRecord) : GeomLayout → Geometry
  | .wh => .wh r.g3 r.g4
  | .rb => .rb r.g3 r.g4

/-- `facing(b)` (R143): the byte is not 0. -/
def facing (b : Byte) : Bool := b != 0

/-- The trigger predicate `Q(s, f)` (R144) on the frame of this cycle: `slot[0]` is read only when `num_faces = 1`, and
evaluation stops at the first false term. A POISON frame or slot is a model fault. -/
def triggerPredicate (s : State) : Except Fault Bool :=
  match s.frame with
  | .poison => .error .poisonFrame
  | .drives f =>
    if f.numFaces ≠ 1 then .ok false
    else match f.slot0 with
      | .poison => .error (.poisonSlot 0)
      | .drives r =>
        .ok (decide (s.cfg.confThreshold.toNat ≤ r.boxConfidence.toNat) && r.idConfidence == 0
          && facing r.isFacing && decide (s.nextUnusedId.toNat < s.cfg.maxIds.toNat))

end Sys2Proof.Machine
end

