-- ==== Sys2Proof/Machine/Flags.lean ====
section
/-! DEFINITION. The status outputs: `crc_ok` with the checksum function (40_decoder.md R113), the phase (10_state.md R38) and
`capacity_exhausted` (R39), with their numeric codes (R41, R190). -/

namespace Sys2Proof.Machine

/-- One bit of the default CRC16 (R113): a shift left, and the polynomial 0x1021 when bit 15 was 1. -/
def crcBit (c : Half) : Half := if c.msb then (c <<< 1) ^^^ 0x1021 else c <<< 1

/-- `n` bits. -/
def crcBits : Nat → Half → Half
  | 0, c => c
  | n + 1, c => crcBits n (crcBit c)

/-- One byte enters at bits 15:8 (R113). -/
def crcByte (c : Half) (d : Byte) : Half := crcBits 8 (c ^^^ (d.setWidth 16 <<< 8))

/-- `CRC16_default` (R113): initial value 0xFFFF, bytes in offset order (R65), no final XOR. -/
def crc16Default (ds : List Byte) : Half := ds.foldl crcByte 0xFFFF

/-- The configured `CRC16` (R18; log 2). -/
def crc16 : Crc16Arg → List Byte → Half
  | .ccittFalse, ds => crc16Default ds
  | .other k, ds => Config.openCrc16 k ds

/-- `Buf[0] ++ … ++ Buf[37]`, the bytes the checksum covers (R113). -/
def coveredBytes (p : Packet) : List Byte := (encodePacket p).take 38

/-- `CRC16(Buf[0..37]) = LE16(38)` (R113). -/
def crcMatches (c : Crc16Arg) (p : Packet) : Bool := crc16 c (coveredBytes p) == p.checksum

/-- The phase of the registers (R38). -/
def State.phase (s : State) : Phase :=
  if 0 < s.calRemaining.toNat then .calibrating
  else if 0 < s.runLen.toNat then .accumulating
  else .idle

/-- `next_unused_id >= MAX_IDS` (R39). -/
def State.capacityExhausted (s : State) : Bool := decide (s.cfg.maxIds.toNat ≤ s.nextUnusedId.toNat)

/-- The 2-bit code of the output `outcome` (R190). -/
def CycleOutcome.code : CycleOutcome → BitVec 2
  | .frame => 0
  | .busUnavailable => 1
  | .faceCountOutOfRange => 2
  | .reset => 3

/-- The 2-bit code of the output `phase` (R40's table). -/
def Phase.code : Phase → BitVec 2
  | .idle => 0
  | .accumulating => 1
  | .calibrating => 2

end Sys2Proof.Machine
end

