-- ==== Sys2Proof/Machine/CommandRows.lean ====
section
/-! DEFINITION. The meaning of the CMD2 row: CMD.CAL_BEGIN (41_controller.md R148, 30_encoding.md R93). -/

namespace Sys2Proof.Machine

/-- CMD.CAL_BEGIN (R148): the command outputs are driven and `write(DEV_ADDR, reg, val)` is issued; no register is written and
its success is not read (R176). -/
def execCmdCalBegin (reg val : Byte) (s : State) : Host.Outcome State Fault Refusal := .next (s.issueWrite reg val)

end Sys2Proof.Machine
end

