-- ==== Sys2Proof/Machine/ControllerRows.lean ====
section
/-! DEFINITION. The meanings of the CTRL rows (41_controller.md R142, R145 to R147). Each holds where the table's match
selects it (30_encoding.md R92) and is refused elsewhere, for the spec gives it no meaning there (log 8). -/

namespace Sys2Proof.Machine

/-- A cycle of outcome FRAME that evaluates, with predicate value `want` (R92, R141). -/
def whenEvaluated (want : Bool) (k : State → Host.Outcome State Fault Refusal) (s : State) :
    Host.Outcome State Fault Refusal :=
  if s.outcome = .frame ∧ s.calRemaining = 0 then
    match triggerPredicate s with
    | .error f => .fault f
    | .ok q => if q = want then k s else .refused .notSelected
  else .refused .notSelected

/-- The run length reaches `HYST_N` with this frame (R145). -/
def State.runReachesHyst (s : State) : Bool := decide (hystN ≤ s.runLen.toNat + 1)

/-- CTRL.COUNTDOWN (R142): `cal_remaining - 1`; the frame is not read. -/
def execCtrlCountdown (s : State) : Host.Outcome State Fault Refusal :=
  if s.outcome = .frame ∧ s.calRemaining ≠ 0 then
    .next (s.setRegs s.nextUnusedId s.runLen (s.calRemaining - 1))
  else .refused .notSelected

/-- CTRL.EVAL.QUALIFY (R145): `run_len + 1` where that is below `HYST_N`; where it is not, nothing is written here and the
cycle goes on with CTRL.TRIGGER (log 9). -/
def execCtrlEvalQualify (s : State) : Host.Outcome State Fault Refusal :=
  whenEvaluated true (fun s =>
    .next (if s.runReachesHyst then s else s.setRegs s.nextUnusedId (s.runLen + 1) s.calRemaining)) s

/-- CTRL.EVAL.FAIL (R146): `run_len` is 0. -/
def execCtrlEvalFail (s : State) : Host.Outcome State Fault Refusal :=
  whenEvaluated false (fun s => .next (s.setRegs s.nextUnusedId 0 s.calRemaining)) s

/-- CTRL.TRIGGER (R147): the calibration-begin write with the old `next_unused_id` (R148), then the three registers
together. `run_len` is the register before CTRL.EVAL.QUALIFY, which wrote nothing. -/
def execCtrlTrigger (s : State) : Host.Outcome State Fault Refusal :=
  whenEvaluated true (fun s =>
    if s.runReachesHyst then
      .next ((s.issueWrite s.cfg.calReg s.nextUnusedId).setRegs (s.nextUnusedId + 1) 0 (BitVec.ofNat 8 countdownN))
    else .refused .notSelected) s

end Sys2Proof.Machine
end

