-- ==== Sys2Proof/Machine/CycleRows.lean ====
section
/-! DEFINITION. The meanings of the CYCLE rows: RST (70_reset_and_hazards.md R210, R211) and CYC.SHORT (42_poll_cycle.md R173). -/

namespace Sys2Proof.Machine

/-- RST (R210): the registers at their reset values (R43), the outputs of R211; the configuration stays (R36). -/
def execRst (s : State) : Host.Outcome State Fault Refusal :=
  .next (((s.raise .reset).undriveCrc.noCommand).setRegs 1 0 0)

/-- CYC.SHORT (R173): outcome BUS_UNAVAILABLE, no register written; neither the count nor the bytes reach an output (R191). -/
def execCycShort (_rdOk : Bool) (_rdCount : Nat) (s : State) : Host.Outcome State Fault Refusal :=
  .next ((s.raise .busUnavailable).undriveCrc.noCommand)

end Sys2Proof.Machine
end

