-- ==== Sys2Proof/Machine/DecoderRows.lean ====
section
/-! DEFINITION. The meanings of the PKT40 rows (40_decoder.md): the five frame classes (R115 to R119), the seven patterns of
the face-count error (R120), and CRC.VERIFY (R113). Each class has its own face count (log 20). -/

namespace Sys2Proof.Machine

/-- A frame class: outcome FRAME with the frame of `nf` meaningful slots (R110, R175). -/
def decodeAs (nf : Nat) (p : Packet) (s : State) : Host.Outcome State Fault Refusal :=
  .next (s.report .frame (.drives (frameOf nf p)))

/-- The face-count error (R120, R174): `raise FACE_COUNT_OUT_OF_RANGE`; the slot bytes are irrelevant. -/
def faceCountError (s : State) : Host.Outcome State Fault Refusal := .next (s.raise .faceCountOutOfRange)

/-- DEC.N0 (R115). -/
def execDecN0 (p : Packet) (s : State) : Host.Outcome State Fault Refusal := decodeAs 0 p s
/-- DEC.N1 (R116). -/
def execDecN1 (p : Packet) (s : State) : Host.Outcome State Fault Refusal := decodeAs 1 p s
/-- DEC.N2 (R117). -/
def execDecN2 (p : Packet) (s : State) : Host.Outcome State Fault Refusal := decodeAs 2 p s
/-- DEC.N3 (R118). -/
def execDecN3 (p : Packet) (s : State) : Host.Outcome State Fault Refusal := decodeAs 3 p s
/-- DEC.N4 (R119). -/
def execDecN4 (p : Packet) (s : State) : Host.Outcome State Fault Refusal := decodeAs 4 p s

/-- DEC.ERR.5 (R120). -/
def execDecErr5 (_p : Packet) (s : State) : Host.Outcome State Fault Refusal := faceCountError s
/-- DEC.ERR.6_7 (R120). -/
def execDecErr6_7 (_p : Packet) (s : State) : Host.Outcome State Fault Refusal := faceCountError s
/-- DEC.ERR.8_15 (R120). -/
def execDecErr8_15 (_p : Packet) (s : State) : Host.Outcome State Fault Refusal := faceCountError s
/-- DEC.ERR.16_31 (R120). -/
def execDecErr16_31 (_p : Packet) (s : State) : Host.Outcome State Fault Refusal := faceCountError s
/-- DEC.ERR.32_63 (R120). -/
def execDecErr32_63 (_p : Packet) (s : State) : Host.Outcome State Fault Refusal := faceCountError s
/-- DEC.ERR.64_127 (R120). -/
def execDecErr64_127 (_p : Packet) (s : State) : Host.Outcome State Fault Refusal := faceCountError s
/-- DEC.ERR.NEG (R120). -/
def execDecErrNeg (_p : Packet) (s : State) : Host.Outcome State Fault Refusal := faceCountError s

/-- CRC.VERIFY (R113): `crc_ok` and nothing else. -/
def execCrcVerify (p : Packet) (s : State) : Host.Outcome State Fault Refusal :=
  .next (s.driveCrc (crcMatches s.cfg.crc16 p))

end Sys2Proof.Machine
end

