-- ==== Sys2Proof/Machine/Dispatch.lean ====
section
/-! DEFINITION. One arm for each row of opcode_table.json. -/

namespace Sys2Proof.Machine

def exec (i : Instr) (s : State) : Host.Outcome State Fault Refusal :=
  match i with
  | .rst => Sys2Proof.Machine.execRst s
  | .cycShort rdOk rdCount => Sys2Proof.Machine.execCycShort rdOk rdCount s
  | .decN0 p => Sys2Proof.Machine.execDecN0 p s
  | .decN1 p => Sys2Proof.Machine.execDecN1 p s
  | .decN2 p => Sys2Proof.Machine.execDecN2 p s
  | .decN3 p => Sys2Proof.Machine.execDecN3 p s
  | .decN4 p => Sys2Proof.Machine.execDecN4 p s
  | .decErr5 p => Sys2Proof.Machine.execDecErr5 p s
  | .decErr6_7 p => Sys2Proof.Machine.execDecErr6_7 p s
  | .decErr8_15 p => Sys2Proof.Machine.execDecErr8_15 p s
  | .decErr16_31 p => Sys2Proof.Machine.execDecErr16_31 p s
  | .decErr32_63 p => Sys2Proof.Machine.execDecErr32_63 p s
  | .decErr64_127 p => Sys2Proof.Machine.execDecErr64_127 p s
  | .decErrNeg p => Sys2Proof.Machine.execDecErrNeg p s
  | .crcVerify p => Sys2Proof.Machine.execCrcVerify p s
  | .ctrlCountdown => Sys2Proof.Machine.execCtrlCountdown s
  | .ctrlEvalQualify => Sys2Proof.Machine.execCtrlEvalQualify s
  | .ctrlEvalFail => Sys2Proof.Machine.execCtrlEvalFail s
  | .ctrlTrigger => Sys2Proof.Machine.execCtrlTrigger s
  | .cmdCalBegin reg val => Sys2Proof.Machine.execCmdCalBegin reg val s

end Sys2Proof.Machine
end

