-- ==== Sys2Proof/Machine/Sequencer.lean ====
section
/-! DEFINITION. The poll cycle (42_poll_cycle.md R170, R171): what is fetched, decoded and run in one step, and in which order. -/

namespace Sys2Proof.Machine

/-- The bytes a cycle gives the decoder: the 40 of a full read, none otherwise (R99, R173: `rd_data` is not read). -/
def fetchBytes (inp : CycleInput) (s : State) : Except Fault (List Byte) :=
  if inp.full then Memory.readRange s.buf 0 pktLen else .ok []

/-- The packet of a PKT40 class row. -/
def packetOf : Instr → Option Packet
  | .rst => none
  | .cycShort _ _ => none
  | .decN0 p => some p
  | .decN1 p => some p
  | .decN2 p => some p
  | .decN3 p => some p
  | .decN4 p => some p
  | .decErr5 p => some p
  | .decErr6_7 p => some p
  | .decErr8_15 p => some p
  | .decErr16_31 p => some p
  | .decErr32_63 p => some p
  | .decErr64_127 p => some p
  | .decErrNeg p => some p
  | .crcVerify _ => none
  | .ctrlCountdown => none
  | .ctrlEvalQualify => none
  | .ctrlEvalFail => none
  | .ctrlTrigger => none
  | .cmdCalBegin _ _ => none

/-- CRC.VERIFY beside the decode class, whether decode succeeds or fails (R90, R113). -/
def verifyStep (i : Instr) (s : State) : Host.Outcome State Fault Refusal :=
  match packetOf i with
  | some p => exec (.crcVerify p) s
  | none => .next s

/-- The signals that select a controller operation (R92). In a countdown the frame is not read (R142). -/
def ctrlSignals (s : State) : Except Fault Presented :=
  if 0 < s.calRemaining.toNat then .ok (.ctrl (s.outcome = .frame) s.calRemaining false s.runLen false)
  else match triggerPredicate s with
    | .error f => .error f
    | .ok q => .ok (.ctrl (s.outcome = .frame) s.calRemaining q s.runLen false)

/-- What follows CTRL.EVAL.QUALIFY in the same cycle (R145): CTRL.TRIGGER when the run length before it was `HYST_N - 1` or
more, nothing otherwise. -/
def afterQualify (before after : State) : Host.Outcome State Fault Refusal :=
  match decode (.ctrl true before.calRemaining true before.runLen true) with
  | .ok j => exec j after
  | .error _ => .next after

/-- The controller step of a FRAME cycle (R140, R141, R175). -/
def ctrlStep (s : State) : Host.Outcome State Fault Refusal :=
  match ctrlSignals s with
  | .error f => .fault f
  | .ok w =>
    match decode w with
    | .error r => .refused (.undecodable r)
    | .ok i => andThen (exec i s) (fun t => if i = .ctrlEvalQualify then afterQualify s t else .next t)

/-- The controller runs only in a cycle of outcome FRAME (R140, R174). -/
def evaluate (s : State) : Host.Outcome State Fault Refusal :=
  if s.outcome = .frame then ctrlStep s else .next s

/-- The operations of a cycle in the order of R171: the checksum, the class, the controller. -/
def runCycle (i : Instr) (s : State) : Host.Outcome State Fault Refusal :=
  andThen (verifyStep i s) (fun s => andThen (exec i s) evaluate)

/-- The state in which a cycle's operations start. -/
def begun (s : State) : State := s.popInput.present s.nextInput

/-- One cycle (R171), from a legal configuration (R36) and a legal state (R45; log 7). -/
def cycle (s : State) : Host.Outcome State Fault Refusal :=
  if !s.cfg.legal then .refused .illegalConfig
  else if !s.legalStart then .refused .illegalStart
  else
    match fetchBytes s.nextInput (begun s) with
    | .error f => .fault f
    | .ok bytes =>
      match decode (.cycle s.nextInput.rst s.nextInput.rdOk s.nextInput.rdCount bytes) with
      | .error r => .refused (.undecodable r)
      | .ok i => andThen (runCycle i (begun s)) (fun t => .next t.discardBuf)

/-- The input of a cycle that reads a packet; `wr_ok` is read by no rule. -/
def inputOfPacket (p : Packet) : CycleInput := ⟨false, true, pktLen, encodePacket p, true⟩

/-- A packet whose frame qualifies for every threshold (R144). -/
def qualifyingPacket : Packet :=
  { Packet.blank 1 with slot0 := { RawFace.zero with boxConfidence := 0xFF, isFacing := 1 } }

/-- The state in which the next cycle issues the CMD2 payload `(reg, val)` (R147): a run of four, no countdown, the register
identifier, the identity and room for it, and a qualifying frame presented. PSFD never sends 0 or 255; for these the identity
register stays as it is. -/
def stageCommand (s : State) (reg val : Byte) : State :=
  let v := if 1 ≤ val.toNat ∧ val.toNat < 255 then val else s.nextUnusedId
  { s with
    cfg := { s.cfg with calReg := reg, maxIds := if v.toNat < s.cfg.maxIds.toNat then s.cfg.maxIds else v + 1 }
    nextUnusedId := v
    runLen       := 4
    calRemaining := 0
    inputs       := inputOfPacket qualifyingPacket :: s.inputs }

/-- `s` with a word of opcode_table.json presented as the next cycle (log 15). -/
def stageWord (s : State) (nbits w : Nat) : State :=
  match tableWord nbits w with
  | some (.cycle rst rdOk rdCount bytes) => { s with inputs := ⟨rst, rdOk, rdCount, bytes, true⟩ :: s.inputs }
  | some (.cmd2 [reg, val]) => stageCommand s reg val
  | _ => s

end Sys2Proof.Machine
end

