-- ==== Sys2Proof/Machine/Step.lean ====
section
/-! DEFINITION. One step of PSFD is one poll cycle (42_poll_cycle.md R170). -/

namespace Sys2Proof.Machine

/-- One poll cycle. -/
def step (s : State) : Host.Outcome State Fault Refusal := cycle s

/-- `s` with a word as opcode_table.json numbers it presented to the next step (log 4, log 15). -/
def State.withFetchWord (s : State) (nbits w : Nat) : State := stageWord s nbits w

end Sys2Proof.Machine
end

