-- ==== Sys2Proof/Machine/Pseudocode.lean ====
section
/-! DEFINITION. The spec's own pseudocode for a whole cycle, transcribed: `ctrl_step` (41_controller.md R140) and `cycle`
(42_poll_cycle.md R171), on mathematical integers (00_scope.md R24). The machine does not use it: that each step agrees with
it is a statement. -/

namespace Sys2Proof.Machine

/-- The state `s = (next_unused_id, run_len, cal_remaining)` of R140, as numbers (R24). -/
structure Regs where
  nextUnusedId : Nat
  runLen       : Nat
  calRemaining : Nat
deriving DecidableEq, Repr

/-- The outputs of a cycle (10_state.md R40's table). -/
structure CycleOut where
  outcome           : CycleOutcome
  frame             : Sig Frame
  crcOk             : Sig Bool
  cmdValid          : Bool
  cmdDev            : Sig (BitVec 7)
  cmdReg            : Sig Byte
  cmdVal            : Sig Byte
  phase             : Phase
  capacityExhausted : Bool
deriving DecidableEq, Repr

/-- `Q(s, f)` of R140; a slot that is POISON would give no value, here false. -/
def predicateRef (c : Config) (s : Regs) (f : Frame) : Bool :=
  match f.slot0 with
  | .poison => false
  | .drives r =>
    decide (f.numFaces.toNat = 1) && decide (c.confThreshold.toNat ≤ r.boxConfidence.toNat)
      && decide (r.idConfidence.toNat = 0) && decide (r.isFacing.toNat ≠ 0) && decide (s.nextUnusedId < c.maxIds.toNat)

/-- `ctrl_step(s, f)` of R140: the next state and the payload of a command, if one is emitted. -/
def ctrlStepRef (c : Config) (s : Regs) (f : Frame) : Regs × Option Nat :=
  if 0 < s.calRemaining then ({ s with calRemaining := s.calRemaining - 1 }, none)
  else
    let run := if predicateRef c s f then s.runLen + 1 else 0
    if hystN ≤ run then ({ nextUnusedId := s.nextUnusedId + 1, runLen := 0, calRemaining := countdownN }, some s.nextUnusedId)
    else ({ s with runLen := run }, none)

/-- The derived phase (R38). -/
def phaseRef (s : Regs) : Phase :=
  if 0 < s.calRemaining then .calibrating else if 0 < s.runLen then .accumulating else .idle

/-- The outputs with a command payload or none (R176, R40). -/
def outRef (c : Config) (o : CycleOutcome) (f : Sig Frame) (crc : Sig Bool) (cmd : Option Nat) (s : Regs) : CycleOut where
  outcome  := o
  frame    := f
  crcOk    := crc
  cmdValid := cmd.isSome
  cmdDev   := match cmd with | some _ => .drives c.devAddr | none => .poison
  cmdReg   := match cmd with | some _ => .drives c.calReg | none => .poison
  cmdVal   := match cmd with | some v => .drives (BitVec.ofNat 8 v) | none => .poison
  phase    := phaseRef s
  capacityExhausted := decide (c.maxIds.toNat ≤ s.nextUnusedId)

/-- `cycle(s, in)` of R171 with `reset_cycle()` of R210 and R211; no value where a full read lacks one of its 40 bytes (R216). -/
def cycleRef (c : Config) (s : Regs) (inp : CycleInput) : Option (Regs × CycleOut) :=
  if inp.rst then some (⟨1, 0, 0⟩, outRef c .reset .poison .poison none ⟨1, 0, 0⟩)
  else if inp.rdOk = false ∨ inp.rdCount ≠ 40 then some (s, outRef c .busUnavailable .poison .poison none s)
  else match parsePacket (inp.rdData.take 40) with
    | .error _ => none
    | .ok p =>
      let crc := Sig.drives (decide (crc16 c.crc16 ((inp.rdData.take 40).take 38) = p.checksum))
      match decodeFrame p with
      | .error _ => some (s, outRef c .faceCountOutOfRange .poison crc none s)
      | .ok f =>
        let r := ctrlStepRef c s f
        some (r.1, outRef c .frame (.drives f) crc r.2 r.1)

/-- The registers of a state, as numbers. -/
def State.regs (s : State) : Regs := ⟨s.nextUnusedId.toNat, s.runLen.toNat, s.calRemaining.toNat⟩

/-- The outputs of a state (R40's table). -/
def State.outputs (s : State) : CycleOut where
  outcome  := s.outcome
  frame    := s.frame
  crcOk    := s.crcOk
  cmdValid := s.cmdValid
  cmdDev   := s.cmdDev
  cmdReg   := s.cmdReg
  cmdVal   := s.cmdVal
  phase    := s.phase
  capacityExhausted := s.capacityExhausted

end Sys2Proof.Machine
end

