-- ==== Sys2Proof/Safety.lean ====
section
/-! DEFINITION. The terms claims use: the invariant of every state between cycles (10_state.md R44, R40, R37, R31), runs of
cycles, and what the cycles of a run carry. -/

namespace Sys2Proof

/-- A full read gives all its 40 bytes, which the environment owes (R216). -/
def CycleInput.whole (inp : CycleInput) : Bool := !inp.full || decide (pktLen ≤ inp.rdData.length)

/-- The packet of a cycle whose outcome is FRAME (R90 step 3). -/
def CycleInput.framePacket (inp : CycleInput) : Option Packet :=
  if inp.full then
    match parsePacket (inp.rdData.take pktLen) with
    | .ok p => if p.facesIn 0 4 then some p else none
    | .error _ => none
  else none

/-- A cycle that is neither a reset nor a FRAME: BUS_UNAVAILABLE or FACE_COUNT_OUT_OF_RANGE (R90 steps 2 and 4). -/
def CycleInput.skipped (inp : CycleInput) : Bool := !inp.rst && inp.whole && inp.framePacket.isNone

end Sys2Proof

namespace Sys2Proof.Machine

/-- A slot is POISON exactly from the face count on, and `id` is a signed byte (R37, R86). -/
def slotShape (k nf : Nat) : Sig FaceRecord → Bool
  | .poison => decide (nf ≤ k)
  | .drives r => decide (k < nf) && decide (-128 ≤ r.id) && decide (r.id ≤ 127)

/-- A frame has at most four faces and exactly that many meaningful slots (R37, R124). -/
def Frame.shape (f : Frame) : Bool :=
  decide (f.numFaces.toNat ≤ maxFaces)
    && slotShape 0 f.numFaces.toNat f.slot0 && slotShape 1 f.numFaces.toNat f.slot1
    && slotShape 2 f.numFaces.toNat f.slot2 && slotShape 3 f.numFaces.toNat f.slot3

/-- `frame` is driven, with that shape, exactly in a cycle of outcome FRAME (R40). -/
def State.frameShape (s : State) : Bool :=
  match s.outcome, s.frame with
  | .frame, .drives f => f.shape
  | .frame, .poison => false
  | _, .poison => true
  | _, .drives _ => false

/-- `crc_ok` is driven exactly when the read delivered 40 bytes (R40, R113). -/
def State.crcShape (s : State) : Bool :=
  match s.outcome, s.crcOk with
  | .frame, .drives _ => true
  | .faceCountOutOfRange, .drives _ => true
  | .busUnavailable, .poison => true
  | .reset, .poison => true
  | _, _ => false

/-- No command, or the calibration-begin command of a trigger just taken (R40, R147, R148, R178). -/
def State.cmdShape (s : State) : Bool :=
  match s.cmdValid, s.cmdDev, s.cmdReg, s.cmdVal with
  | false, .poison, .poison, .poison => true
  | true, .drives d, .drives r, .drives v =>
    decide (s.outcome = .frame) && d == s.cfg.devAddr && r == s.cfg.calReg && decide (v.toNat + 1 = s.nextUnusedId.toNat)
      && decide (s.runLen.toNat = 0) && decide (s.calRemaining.toNat = countdownN)
  | _, _, _, _ => false

/-- The write call of the command, if one is driven. -/
def State.writeCalls (s : State) : List BusCall :=
  match s.cmdDev, s.cmdReg, s.cmdVal with
  | .drives d, .drives r, .drives v => [.write d r v]
  | _, _, _ => []

/-- The calls of the latest cycle: none in a reset cycle (R210), else the read, then the write if one was issued (R172, R176). -/
def State.callShape (s : State) : Bool :=
  if s.outcome = .reset then decide (s.calls = []) else decide (s.calls = .read s.cfg.devAddr pktLen :: s.writeCalls)

/-- The invariant between cycles: a legal configuration (R36), the register ranges (R44), outputs POISON exactly where R40
says, and no packet kept (R31). -/
def State.inv (s : State) : Bool :=
  s.cfg.legal && s.legalStart && s.frameShape && s.crcShape && s.cmdShape && s.callShape && decide (s.buf = [])

/-- The four terms of the trigger predicate that are about the packet (R144). -/
def qualifies (c : Config) (p : Packet) : Bool :=
  p.numFaces == 1 && decide (c.confThreshold.toNat ≤ p.slot0.boxConfidence.toNat) && p.slot0.idConfidence == 0
    && facing p.slot0.isFacing

/-- A cycle that presents a qualifying frame. -/
def qualifyingInput (c : Config) (inp : CycleInput) : Bool :=
  match inp.framePacket with
  | some p => qualifies c p
  | none => false

/-- The frame output is of one face that satisfies the packet's terms of the predicate, and an identity is left (R144). -/
def State.Qualifying (s : State) : Prop :=
  ∃ f r, s.frame = .drives f ∧ f.numFaces = 1 ∧ f.slot0 = .drives r ∧ s.cfg.confThreshold.toNat ≤ r.boxConfidence.toNat ∧
    r.idConfidence = 0 ∧ r.isFacing ≠ 0 ∧ s.nextUnusedId.toNat < s.cfg.maxIds.toNat

/-- The frame output fails a term of the predicate (R144): not one face, or one face and another term false. -/
def State.Failing (s : State) : Prop :=
  ∃ f, s.frame = .drives f ∧ (f.numFaces ≠ 1 ∨
    ∃ r, f.slot0 = .drives r ∧ (r.boxConfidence.toNat < s.cfg.confThreshold.toNat ∨ r.idConfidence ≠ 0 ∨ r.isFacing = 0 ∨
      s.cfg.maxIds.toNat ≤ s.nextUnusedId.toNat))

/-- The latest cycle showed one face that satisfies the packet's terms of the predicate (R144). -/
def State.showsQualifying (s : State) : Bool :=
  match s.frame with
  | .poison => false
  | .drives f =>
    match f.slot0 with
    | .poison => false
    | .drives r =>
      f.numFaces == 1 && decide (s.cfg.confThreshold.toNat ≤ r.boxConfidence.toNat) && r.idConfidence == 0
        && facing r.isFacing

/-- A meaningful slot of a wire record: the bytes, `id` as a two's-complement value (R88). -/
def meaningfulSlot (r : RawFace) : Sig FaceRecord :=
  .drives ⟨r.boxConfidence, r.boxLeft, r.boxTop, r.g3, r.g4, r.idConfidence, r.id.toInt, r.isFacing⟩

/-- Slot `k` read from the packet's bytes at `5 + 8*k` (R88). -/
def faceAtOffset (bs : List Byte) (k : Nat) : FaceRecord :=
  ⟨bs.getD (5 + 8 * k) 0, bs.getD (5 + 8 * k + 1) 0, bs.getD (5 + 8 * k + 2) 0, bs.getD (5 + 8 * k + 3) 0,
   bs.getD (5 + 8 * k + 4) 0, bs.getD (5 + 8 * k + 5) 0, (bs.getD (5 + 8 * k + 6) 0).toInt, bs.getD (5 + 8 * k + 7) 0⟩

/-- The frame output but for its checksum field. -/
def dropChecksum : Sig Frame → Sig Frame
  | .poison => .poison
  | .drives f => .drives { f with checksum := 0 }

/-- The frame output but for its data_size field. -/
def dropDataSize : Sig Frame → Sig Frame
  | .poison => .poison
  | .drives f => .drives { f with dataSize := 0 }

/-- The same state with another geometry layout configured. -/
def State.withGeometry (g : GeomLayout) (s : State) : State := { s with cfg := { s.cfg with geomLayout := g } }

/-- The state with one more cycle presented first, whatever the last cycle left. -/
def State.presenting (s : State) (inp : CycleInput) : State := { s with inputs := inp :: s.inputs }

/-- The states after each of `n` cycles, if every one of them answers a next state. -/
def statesAfter : Nat → State → Option (List State)
  | 0, _ => some []
  | n + 1, s =>
    match step s with
    | .next t => (statesAfter n t).map (fun ts => t :: ts)
    | .fault _ => none
    | .refused _ => none

/-- How many of these cycles had outcome FRAME (R156 counts these only). -/
def frameCount (ts : List State) : Nat := ts.countP (fun t => t.outcome = .frame)

/-- The FRAME cycles among these. -/
def frameCycles (ts : List State) : List State := ts.filter (fun t => t.outcome = .frame)

/-- None of these cycles was a reset. -/
def noReset (ts : List State) : Bool := ts.all (fun t => t.outcome != .reset)

/-- The payload of the command of the latest cycle, if one was issued. -/
def State.payload (s : State) : Option Nat :=
  match s.cmdValid, s.cmdVal with
  | true, .drives v => some v.toNat
  | _, _ => none

/-- The payloads of the commands of a run, in order. -/
def payloads (ts : List State) : List Nat := ts.filterMap State.payload

end Sys2Proof.Machine
end

