-- ==== Sys2Proof/Certificates/Slice0/Obligations.lean ====
section
/-! DEFINITION. The statements for the provers. Each docstring names the rules of spec/ it formalises. -/

open Sys2Proof Sys2Proof.Machine

/-! Encoding. -/

/-- R91, R93, R90: a few inputs written out from the encodings decode to the operations they stand for. -/
def Obligations.KnownWordsDecode : Prop :=
  decode (.cycle true true 40 []) = .ok .rst ∧
  decode (.cycle false true 39 []) = .ok (.cycShort true 39) ∧
  decode (.cycle false true 40 ([0x12, 0x34, 0x28, 0x00, 0x01, 0xC8, 0x0A, 0x14, 0x1E, 0x28, 0x00, 0x00, 0x01]
      ++ List.replicate 24 0x00 ++ [0x99, 0x84, 0x4E]))
    = .ok (.decN1 ⟨0x12, 0x34, 0x0028, 1, ⟨200, 10, 20, 30, 40, 0, 0, 1⟩, .zero, .zero, .zero, 0x99, 0x4E84⟩) ∧
  decode (.cycle false true 40 (List.replicate 40 0xFF))
    = .ok (.decErrNeg ⟨0xFF, 0xFF, 0xFFFF, 0xFF, ⟨255, 255, 255, 255, 255, 255, 255, 255⟩, ⟨255, 255, 255, 255, 255, 255, 255, 255⟩,
        ⟨255, 255, 255, 255, 255, 255, 255, 255⟩, ⟨255, 255, 255, 255, 255, 255, 255, 255⟩, 0xFF, 0xFFFF⟩) ∧
  decode (.cmd2 [0x04, 0x01]) = .ok (.cmdCalBegin 0x04 0x01)

/-- R91: the twelve patterns with their classes; each packet matches exactly one, decodes to that row's operation, has a value
of that row (WellFormed), and the operation's outcome is the row's. -/
def Obligations.EveryPacketHasExactlyOneRow : Prop :=
  pktRows.map (fun r => (r.mask, r.value)) = [(0xFF, 0x00), (0xFF, 0x01), (0xFF, 0x02), (0xFF, 0x03), (0xFF, 0x04), (0xFF, 0x05),
    (0xFE, 0x06), (0xF8, 0x08), (0xF0, 0x10), (0xE0, 0x20), (0xC0, 0x40), (0x80, 0x80)] ∧
  ∀ p : Packet, pktRows.map (fun r => r.make p) = [.decN0 p, .decN1 p, .decN2 p, .decN3 p, .decN4 p, .decErr5 p, .decErr6_7 p,
    .decErr8_15 p, .decErr16_31 p, .decErr32_63 p, .decErr64_127 p, .decErrNeg p] ∧ ∃ r ∈ pktRows,
    r.hits p.numFaces = true ∧ (∀ r' ∈ pktRows, r'.hits p.numFaces = true → r'.mask = r.mask ∧ r'.value = r.value) ∧
    decode (fullRead p) = .ok (r.make p) ∧ WellFormed (r.make p) = true ∧
    ∀ s, ∃ t, exec (r.make p) s = .next t ∧
      t.outcome = if 0 ≤ p.numFaces.toInt ∧ p.numFaces.toInt ≤ 4 then .frame else .faceCountOutOfRange

/-- R81, R86, R89, R93: decoding what the encoder gives for a well-formed operation gives it back, with every operand at
every value. -/
def Obligations.DecodeOfEncodeIsTheOperation : Prop :=
  ∀ i : Instr, WellFormed i = true → decode (encode i) = .ok i

/-- R81: no bit of a packet, of a verified packet or of a CMD2 payload is dropped: encoding what was decoded gives the bytes. -/
def Obligations.EncodeOfDecodeIsThePresentedBytes : Prop :=
  ∀ (bs : List Byte) (i : Instr),
    (decode (.cycle false true 40 bs) = .ok i → encode i = .cycle false true 40 bs) ∧
    (decode (.verify bs) = .ok i → encode i = .verify bs) ∧
    (decode (.cmd2 bs) = .ok i → encode i = .cmd2 bs)

/-- R91, R90: whatever is presented, an operation the decoder gives is well formed. -/
def Obligations.DecodedOperationsAreWellFormed : Prop :=
  ∀ (x : Presented) (i : Instr), decode x = .ok i → WellFormed i = true

/-- R90: the classification of a cycle, in its order: reset over everything, a failed or wrong-length read over any decode, and
a full read by its face count. -/
def Obligations.CyclesAreClassifiedInOrder : Prop :=
  ∀ (rst rdOk : Bool) (n : Nat) (bs : List Byte),
    (rst = true → decode (.cycle rst rdOk n bs) = .ok .rst) ∧
    (rst = false → (rdOk = false ∨ n ≠ 40) → decode (.cycle rst rdOk n bs) = .ok (.cycShort rdOk n)) ∧
    (rst = false → rdOk = true → n = 40 → bs.length = 40 → ∃ p, encodePacket p = bs ∧
      ((0 ≤ p.numFaces.toInt ∧ p.numFaces.toInt ≤ 4 ∧
          decode (.cycle rst rdOk n bs) ∈ [.ok (.decN0 p), .ok (.decN1 p), .ok (.decN2 p), .ok (.decN3 p), .ok (.decN4 p)]) ∨
       (¬(0 ≤ p.numFaces.toInt ∧ p.numFaces.toInt ≤ 4) ∧
          decode (.cycle rst rdOk n bs) ∈ [.ok (.decErr5 p), .ok (.decErr6_7 p), .ok (.decErr8_15 p), .ok (.decErr16_31 p),
            .ok (.decErr32_63 p), .ok (.decErr64_127 p), .ok (.decErrNeg p)])))

/-! The step. -/

/-- R170, R171: from a legal configuration and state, a step is: the presented cycle is taken, its read is in the buffer, the
fetched bytes are decoded, CRC.VERIFY runs beside a packet's class, the decoded operation runs, the controller runs if the
outcome is FRAME, and the packet is discarded. -/
def Obligations.StepRunsTheDecodedOperation : Prop :=
  ∀ (s : State) (bytes : List Byte) (i : Instr),
    s.cfg.legal = true → s.legalStart = true →
    fetchBytes s.nextInput (begun s) = .ok bytes →
    decode (.cycle s.nextInput.rst s.nextInput.rdOk s.nextInput.rdCount bytes) = .ok i →
    step s =
      andThen (match packetOf i with | some p => exec (.crcVerify p) (begun s) | none => .next (begun s)) fun u =>
      andThen (exec i u) fun v =>
      andThen (if v.outcome = .frame then ctrlStep v else .next v) fun t => .next { t with buf := [] }

/-- R141: the controller step is CTRL.COUNTDOWN and nothing else in a countdown, else CTRL.EVAL.FAIL, or CTRL.EVAL.QUALIFY
followed in the same cycle by CTRL.TRIGGER when the new run length reaches HYST_N. -/
def Obligations.ControllerStepRunsTheSelectedOperation : Prop :=
  ∀ s : State, s.outcome = .frame →
    (0 < s.calRemaining.toNat → ctrlStep s = exec .ctrlCountdown s) ∧
    (s.calRemaining = 0 → s.Failing → ctrlStep s = exec .ctrlEvalFail s) ∧
    (s.calRemaining = 0 → s.Qualifying → s.runLen.toNat + 1 < 5 → ctrlStep s = exec .ctrlEvalQualify s) ∧
    (s.calRemaining = 0 → s.Qualifying → 5 ≤ s.runLen.toNat + 1 →
      ctrlStep s = andThen (exec .ctrlEvalQualify s) (exec .ctrlTrigger))

/-- R172, R210, R40's table: a non-reset cycle starts with the read `read(DEV_ADDR, 40)`, whose delivered bytes are what the
buffer reads as, an offset at or above rd_count being POISON; a reset cycle issues no read. The model's choices: the canonical
form, the fault noSuchOffset from offset 40 on, and a buffer of a reset cycle that is POISON at every offset (log 5, DESIGN
CHOICE); that the bytes presented at or above rd_count are dropped (log 18, DEDUCED); the list of calls (log 12, DESIGN CHOICE). -/
def Obligations.CycleStartsWithTheReadRequest : Prop :=
  ∀ s : State,
    (begun s).calls = (if s.nextInput.rst then [] else [.read s.cfg.devAddr 40]) ∧
    Memory.wf (begun s).buf = true ∧
    ∀ a : Nat, Memory.read (begun s).buf a =
      if 40 ≤ a then .error (.noSuchOffset a)
      else if s.nextInput.rst ∨ s.nextInput.rdCount ≤ a then .error (.poisonByte a)
      else match s.nextInput.rdData[a]? with | some b => .ok b | none => .error (.poisonByte a)

/-! Each operation: where it completes, and its whole next state. -/

/-- R210, R43: RST completes in every state. -/
def Obligations.RstCompletes : Prop :=
  ∀ s : State, ∃ t, exec .rst s = .next t ∧
    t.nextUnusedId = 1 ∧ t.runLen = 0 ∧ t.calRemaining = 0 ∧ t.cfg = s.cfg ∧
    t.outcome.code = 3 ∧ t.frame = .poison ∧ t.crcOk = .poison ∧ t.cmdValid = false ∧
    t.phase = .idle ∧ t.capacityExhausted = decide (s.cfg.maxIds.toNat ≤ 1)

/-- R173: CYC.SHORT completes in every state, whatever its flag and count: only outputs change. -/
def Obligations.CycShortCompletes : Prop :=
  ∀ (rdOk : Bool) (n : Nat) (s : State), exec (.cycShort rdOk n) s =
    .next { s with outcome := .busUnavailable, frame := .poison, crcOk := .poison, cmdValid := false,
                   cmdDev := .poison, cmdReg := .poison, cmdVal := .poison }

/-- R115 to R119, R88, R114: the five frame classes complete in every state with outcome FRAME and the frame of exactly that
many meaningful slots, `id` sign-extended; nothing else changes. On a packet whose own num_faces byte is another, which the
decoder never gives, that the class counts is the model's choice (log 20, DESIGN CHOICE). -/
def Obligations.FrameClassesComplete : Prop :=
  ∀ (p : Packet) (s : State),
    exec (.decN0 p) s = .next { s with outcome := .frame, frame := .drives ⟨p.dataSize, 0, .poison, .poison, .poison, .poison, p.checksum⟩ } ∧
    exec (.decN1 p) s = .next { s with outcome := .frame, frame := .drives ⟨p.dataSize, 1, meaningfulSlot p.slot0, .poison, .poison, .poison, p.checksum⟩ } ∧
    exec (.decN2 p) s = .next { s with outcome := .frame, frame := .drives ⟨p.dataSize, 2, meaningfulSlot p.slot0, meaningfulSlot p.slot1, .poison, .poison, p.checksum⟩ } ∧
    exec (.decN3 p) s = .next { s with outcome := .frame, frame := .drives ⟨p.dataSize, 3, meaningfulSlot p.slot0, meaningfulSlot p.slot1, meaningfulSlot p.slot2, .poison, p.checksum⟩ } ∧
    exec (.decN4 p) s = .next { s with outcome := .frame, frame := .drives ⟨p.dataSize, 4, meaningfulSlot p.slot0, meaningfulSlot p.slot1, meaningfulSlot p.slot2, meaningfulSlot p.slot3, p.checksum⟩ }

/-- R120: the seven patterns of the face-count error complete in every state with that outcome and the frame POISON; nothing
else changes. On a packet whose own num_faces byte is not the row's that is the model's choice (log 20, DESIGN CHOICE). -/
def Obligations.FaceCountErrorsComplete : Prop :=
  ∀ (p : Packet) (s : State),
    ∀ i ∈ [Instr.decErr5 p, .decErr6_7 p, .decErr8_15 p, .decErr16_31 p, .decErr32_63 p, .decErr64_127 p, .decErrNeg p],
      exec i s = .next { s with outcome := .faceCountOutOfRange, frame := .poison }

/-- R113: CRC.VERIFY completes in every state and changes `crc_ok` alone: for the bytes whose fields the packet is, `crc_ok`
says whether CRC16 of offsets 0 to 37, in order, is the little-endian checksum at 38. -/
def Obligations.CrcVerifyCompletes : Prop :=
  ∀ (p : Packet) (s : State), ∃ t, exec (.crcVerify p) s = .next t ∧ t = { s with crcOk := t.crcOk } ∧
    ∀ bs, parsePacket bs = .ok p → t.crcOk =
      .drives (decide ((crc16 s.cfg.crc16 (bs.take 38)).toNat = (bs.getD 38 0).toNat + 256 * (bs.getD 39 0).toNat))

/-- R142: CTRL.COUNTDOWN completes in every FRAME cycle with cal_remaining > 0, whatever the frame: cal_remaining is one less. -/
def Obligations.CountdownCompletes : Prop :=
  ∀ s : State, s.outcome = .frame → 0 < s.calRemaining.toNat → ∃ t,
    exec .ctrlCountdown s = .next t ∧ t.calRemaining.toNat = s.calRemaining.toNat - 1 ∧ t = { s with calRemaining := t.calRemaining } ∧
    (s.calRemaining = 1 → s.runLen = 0 → t.phase = .idle)

/-- R145: CTRL.EVAL.QUALIFY completes on a qualifying frame outside a countdown: run_len is one more while that is below
HYST_N. That the operation itself writes nothing where CTRL.TRIGGER follows is the model's reading (log 9, DEDUCED). -/
def Obligations.QualifyCompletes : Prop :=
  ∀ s : State, s.outcome = .frame → s.calRemaining = 0 → s.Qualifying →
    (s.runLen.toNat + 1 < 5 → ∃ t, exec .ctrlEvalQualify s = .next t ∧ t.runLen.toNat = s.runLen.toNat + 1 ∧
      t = { s with runLen := t.runLen }) ∧
    (5 ≤ s.runLen.toNat + 1 → exec .ctrlEvalQualify s = .next s)

/-- R146: CTRL.EVAL.FAIL completes on a frame that fails the predicate outside a countdown: run_len is 0. -/
def Obligations.FailCompletes : Prop :=
  ∀ s : State, s.outcome = .frame → s.calRemaining = 0 → s.Failing → exec .ctrlEvalFail s = .next { s with runLen := 0 }

/-- R147, R148: CTRL.TRIGGER completes on a qualifying frame that brings the run to HYST_N: the command carries the identity
before the increment, and the three registers are written together. -/
def Obligations.TriggerCompletes : Prop :=
  ∀ s : State, s.outcome = .frame → s.calRemaining = 0 → s.Qualifying → 5 ≤ s.runLen.toNat + 1 → ∃ t,
    exec .ctrlTrigger s = .next t ∧ t.nextUnusedId.toNat = s.nextUnusedId.toNat + 1 ∧
    t = { s with nextUnusedId := t.nextUnusedId, runLen := 0, calRemaining := 20, cmdValid := true, cmdDev := .drives s.cfg.devAddr,
                 cmdReg := .drives s.cfg.calReg, cmdVal := .drives s.nextUnusedId,
                 calls := s.calls ++ [.write s.cfg.devAddr s.cfg.calReg s.nextUnusedId] }

/-- R148, R93: CMD.CAL_BEGIN completes in every state: the command outputs and the write call, nothing else. That it has this
meaning alone, outside a trigger and on any two bytes, is the model's reading (log 17, DEDUCED). -/
def Obligations.CalBeginCompletes : Prop :=
  ∀ (reg val : Byte) (s : State), exec (.cmdCalBegin reg val) s =
    .next { s with cmdValid := true, cmdDev := .drives s.cfg.devAddr, cmdReg := .drives reg, cmdVal := .drives val,
                   calls := s.calls ++ [.write s.cfg.devAddr reg val] }

/-- R147, R148, R93: what CTRL.TRIGGER issues is exactly CMD.CAL_BEGIN with CAL_REG and the old next_unused_id; then come its
register writes. -/
def Obligations.TriggerIssuesCalBegin : Prop :=
  ∀ s t : State, exec .ctrlTrigger s = .next t → ∃ u, exec (.cmdCalBegin s.cfg.calReg s.nextUnusedId) s = .next u ∧
    t = { u with nextUnusedId := s.nextUnusedId + 1, runLen := 0, calRemaining := 20 }

/-- R92 (the refusal is the model's choice, log 8): a controller operation that the state does not select is refused. -/
def Obligations.UnselectedControllerOperationsAreRefused : Prop :=
  ∀ s : State,
    (s.outcome ≠ .frame → ∀ i ∈ [Instr.ctrlCountdown, .ctrlEvalQualify, .ctrlEvalFail, .ctrlTrigger], exec i s = .refused .notSelected) ∧
    (s.calRemaining = 0 → exec .ctrlCountdown s = .refused .notSelected) ∧
    (s.calRemaining ≠ 0 → ∀ i ∈ [Instr.ctrlEvalQualify, .ctrlEvalFail, .ctrlTrigger], exec i s = .refused .notSelected) ∧
    (s.Failing → ∀ i ∈ [Instr.ctrlEvalQualify, .ctrlTrigger], exec i s = .refused .notSelected) ∧
    (s.Qualifying → exec .ctrlEvalFail s = .refused .notSelected) ∧
    (s.Qualifying → s.runLen.toNat + 1 < 5 → exec .ctrlTrigger s = .refused .notSelected)

/-! Frames: what each operation leaves unchanged. -/

/-- R121: the decoder classes and the checksum verifier write no register, no command and no byte of the buffer; a class
leaves `crc_ok`, the verifier leaves the outcome and the frame. -/
def Obligations.DecoderOperationsFrame : Prop :=
  ∀ (i : Instr) (p : Packet) (s t : State), packetOf i = some p ∨ i = .crcVerify p → exec i s = .next t →
    t.nextUnusedId = s.nextUnusedId ∧ t.runLen = s.runLen ∧ t.calRemaining = s.calRemaining ∧ t.cfg = s.cfg ∧
    t.cmdValid = s.cmdValid ∧ t.cmdDev = s.cmdDev ∧ t.cmdReg = s.cmdReg ∧ t.cmdVal = s.cmdVal ∧ t.calls = s.calls ∧
    t.inputs = s.inputs ∧ t.cycleNo = s.cycleNo ∧ (∀ a, Memory.read t.buf a = Memory.read s.buf a) ∧
    (packetOf i = some p → t.crcOk = s.crcOk) ∧ (i = .crcVerify p → t.outcome = s.outcome ∧ t.frame = s.frame)

/-- R142, R145 to R147: a controller operation leaves the configuration, the outcome, the frame, `crc_ok` and the buffer; only
CTRL.TRIGGER changes next_unused_id or issues a command, only it and CTRL.COUNTDOWN change cal_remaining, and CTRL.COUNTDOWN
leaves run_len. -/
def Obligations.ControllerOperationsFrame : Prop :=
  ∀ (i : Instr) (s t : State), i ∈ [Instr.ctrlCountdown, .ctrlEvalQualify, .ctrlEvalFail, .ctrlTrigger] → exec i s = .next t →
    t.cfg = s.cfg ∧ t.outcome = s.outcome ∧ t.frame = s.frame ∧ t.crcOk = s.crcOk ∧ t.inputs = s.inputs ∧ t.cycleNo = s.cycleNo ∧
    (∀ a, Memory.read t.buf a = Memory.read s.buf a) ∧
    (i ≠ .ctrlTrigger → t.nextUnusedId = s.nextUnusedId ∧ t.cmdValid = s.cmdValid ∧ t.cmdDev = s.cmdDev ∧ t.cmdReg = s.cmdReg ∧
      t.cmdVal = s.cmdVal ∧ t.calls = s.calls) ∧
    (i = .ctrlCountdown → t.runLen = s.runLen) ∧
    (i = .ctrlEvalQualify ∨ i = .ctrlEvalFail → t.calRemaining = s.calRemaining)

/-- R210, R173, R148: RST leaves the configuration, CYC.SHORT and CMD.CAL_BEGIN also every register; none writes the buffer;
CMD.CAL_BEGIN leaves the outcome, the frame and `crc_ok`, and RST and CYC.SHORT issue no call. -/
def Obligations.CycleAndCommandOperationsFrame : Prop :=
  ∀ (i : Instr) (rdOk : Bool) (n : Nat) (reg val : Byte) (s t : State),
    i ∈ [Instr.rst, .cycShort rdOk n, .cmdCalBegin reg val] → exec i s = .next t →
    t.cfg = s.cfg ∧ t.inputs = s.inputs ∧ t.cycleNo = s.cycleNo ∧ (∀ a, Memory.read t.buf a = Memory.read s.buf a) ∧
    (i ≠ .rst → t.nextUnusedId = s.nextUnusedId ∧ t.runLen = s.runLen ∧ t.calRemaining = s.calRemaining) ∧
    (i = .cmdCalBegin reg val → t.outcome = s.outcome ∧ t.frame = s.frame ∧ t.crcOk = s.crcOk) ∧
    (i ≠ .cmdCalBegin reg val → t.calls = s.calls)

/-! Operands and status outputs. -/

/-- R144, R143: the trigger predicate is false unless there is exactly one face, whatever the slots hold; with one face it is
the conjunction of the four other terms, a facing byte being any nonzero byte; it never reads a POISON slot of a frame whose
slots are meaningful. -/
def Obligations.TriggerPredicateIsTheFiveTerms : Prop :=
  ∀ (s : State) (f : Frame), s.frame = .drives f →
    (f.numFaces ≠ 1 → triggerPredicate s = .ok false) ∧
    (∀ r, f.numFaces = 1 → f.slot0 = .drives r → ∃ q, triggerPredicate s = .ok q ∧
      (q = true ↔ s.cfg.confThreshold.toNat ≤ r.boxConfidence.toNat ∧ r.idConfidence.toNat = 0 ∧ r.isFacing.toNat ≠ 0 ∧
        s.nextUnusedId.toNat < s.cfg.maxIds.toNat)) ∧
    (f.shape = true → ∃ q, triggerPredicate s = .ok q)

/-- R215, R37, R114: after a frame class, reading `slot[k]` gives the decoded record for k below the face count and is a model
fault from it on. The function that reads a slot is the model's (log 16, DESIGN CHOICE); on a packet whose own num_faces byte is
not the class's, so is the count (log 20, DESIGN CHOICE). -/
def Obligations.SlotsFromTheCountOnArePoison : Prop :=
  ∀ (p : Packet) (s t : State) (n : Fin 5),
    exec (match n with | 0 => .decN0 p | 1 => .decN1 p | 2 => .decN2 p | 3 => .decN3 p | 4 => .decN4 p) s = .next t →
    ∀ k : Fin 4,
      (k.val < n.val → ∃ r, t.readSlot k = .ok r ∧
        Sig.drives r = meaningfulSlot (match k with | 0 => p.slot0 | 1 => p.slot1 | 2 => p.slot2 | 3 => p.slot3)) ∧
      (n.val ≤ k.val → t.readSlot k = .error (.poisonSlot k.val))

/-- R38: the phase is calibrating when cal_remaining > 0, accumulating when it is 0 and run_len > 0, idle when both are 0; the
codes are those of R40's table; R39: capacity_exhausted is next_unused_id >= MAX_IDS. -/
def Obligations.PhaseAndCapacityAreDerived : Prop :=
  ∀ s : State,
    (s.phase = .calibrating ↔ 0 < s.calRemaining.toNat) ∧
    (s.phase = .accumulating ↔ s.calRemaining.toNat = 0 ∧ 0 < s.runLen.toNat) ∧
    (s.phase = .idle ↔ s.calRemaining.toNat = 0 ∧ s.runLen.toNat = 0) ∧
    (s.phase.code = 0 ↔ s.phase = .idle) ∧ (s.phase.code = 1 ↔ s.phase = .accumulating) ∧ (s.phase.code = 2 ↔ s.phase = .calibrating) ∧
    (s.capacityExhausted = true ↔ s.nextUnusedId.toNat ≥ s.cfg.maxIds.toNat)

/-- R124, R112, R122: a direct decode call fails exactly where num_faces, read signed, is outside 0..4, and else returns exactly
that many meaningful slots; a call on other than 40 bytes is refused. -/
def Obligations.DecodeReturnsExactlyTheMeaningfulSlots : Prop :=
  ∀ raw : List Byte,
    (raw.length ≠ 40 → decodeCall raw = .refused (.undecodable (.wrongLength raw.length))) ∧
    (raw.length = 40 →
      (0 ≤ (raw.getD 4 0).toInt ∧ (raw.getD 4 0).toInt ≤ 4 → ∃ f, decodeCall raw = .next (.ok f) ∧
        (f.numFaces.toNat : Int) = (raw.getD 4 0).toInt ∧
        ∀ k : Fin 4, f.slot k = if (k.val : Int) < (raw.getD 4 0).toInt then .drives (faceAtOffset raw k.val) else .poison) ∧
      (¬(0 ≤ (raw.getD 4 0).toInt ∧ (raw.getD 4 0).toInt ≤ 4) → decodeCall raw = .next (.error .faceCountOutOfRange)))

/-- R125 for the default CRC16 (R113), from general knowledge as the rule marks it: a change confined to one byte of offsets 0 to 37 of a packet that matches its checksum
makes it mismatch. -/
def Obligations.DefaultCrcDetectsEveryOneByteChange : Prop :=
  ∀ (bs : List Byte) (i : Nat) (b : Byte) (p q : Packet), i < 38 → bs[i]? ≠ some b →
    parsePacket bs = .ok p → parsePacket (bs.set i b) = .ok q →
    crcMatches .ccittFalse p = true → crcMatches .ccittFalse q = false

/-! Whole cycles. -/

/-- R88, R85, R63: a full read with a face count in 0..4 drives a frame whose every field is the spec's bytes of the packet. -/
def Obligations.FrameFieldsAreThePacketBytes : Prop :=
  ∀ (s : State) (bs : List Byte) (w : Bool), s.cfg.legal = true → s.legalStart = true → bs.length = 40 →
    (bs.getD 4 0).toNat ≤ 4 → ∃ t f, step (s.presenting ⟨false, true, 40, bs, w⟩) = .next t ∧
      t.outcome = .frame ∧ t.frame = .drives f ∧ f.numFaces = bs.getD 4 0 ∧
      f.dataSize.toNat = (bs.getD 2 0).toNat + 256 * (bs.getD 3 0).toNat ∧
      f.checksum.toNat = (bs.getD 38 0).toNat + 256 * (bs.getD 39 0).toNat ∧
      ∀ k : Fin 4, f.slot k = if k.val < (bs.getD 4 0).toNat then .drives (faceAtOffset bs k.val) else .poison

/-- R210, R211: a reset cycle, whatever its read inputs, answers the reset registers and the outputs of a reset cycle, issues
no call, and leaves the configuration. -/
def Obligations.ResetCycleAnswersTheResetState : Prop :=
  ∀ s : State, s.cfg.legal = true → s.legalStart = true → s.nextInput.rst = true →
    step s = .next { State.ofConfig s.cfg with inputs := s.inputs.tail, cycleNo := s.cycleNo + 1 } ∧
    (State.ofConfig s.cfg).regs = ⟨1, 0, 0⟩ ∧ CycleOutcome.reset.code = 3 ∧
    (State.ofConfig s.cfg).outputs = ⟨.reset, .poison, .poison, false, .poison, .poison, .poison, .idle, decide (1 ≥ s.cfg.maxIds.toNat)⟩ ∧
    (State.ofConfig s.cfg).calls = []

/-- R173, R191: a failed read, or one of other than 40 bytes, ends with BUS_UNAVAILABLE: no register changes, no byte of the
read reaches an output, no command is issued. -/
def Obligations.ShortReadSkipsTheCycle : Prop :=
  ∀ s : State, s.cfg.legal = true → s.legalStart = true → s.nextInput.rst = false →
    (s.nextInput.rdOk = false ∨ s.nextInput.rdCount ≠ 40) →
    step s = .next { s with
      buf := [], outcome := .busUnavailable, frame := .poison, crcOk := .poison, cmdValid := false, cmdDev := .poison,
      cmdReg := .poison, cmdVal := .poison, calls := [.read s.cfg.devAddr 40], inputs := s.inputs.tail, cycleNo := s.cycleNo + 1 }

/-- R174, R120, R113: a full read whose face count is outside 0..4 ends with FACE_COUNT_OUT_OF_RANGE: no register changes, the
controller does not run, the frame is POISON, and `crc_ok` is still driven. -/
def Obligations.FaceCountErrorSkipsTheController : Prop :=
  ∀ (s : State) (bs : List Byte) (w : Bool), s.cfg.legal = true → s.legalStart = true → bs.length = 40 →
    ¬(0 ≤ (bs.getD 4 0).toInt ∧ (bs.getD 4 0).toInt ≤ 4) →
    step (s.presenting ⟨false, true, 40, bs, w⟩) = .next { s with
      buf := [], outcome := .faceCountOutOfRange, frame := .poison,
      crcOk := .drives (decide ((crc16 s.cfg.crc16 (bs.take 38)).toNat = (bs.getD 38 0).toNat + 256 * (bs.getD 39 0).toNat)),
      cmdValid := false, cmdDev := .poison, cmdReg := .poison, cmdVal := .poison, calls := [.read s.cfg.devAddr 40],
      cycleNo := s.cycleNo + 1 }

/-- R36, R212, R43: a configuration with MAX_IDS outside 1..255, DEV_ADDR outside 0..0x7F or GEOM_LAYOUT not 0 or 1 is refused
before the first cycle; any other gives the reset state with exactly those arguments. -/
def Obligations.PowerUpChecksTheConfiguration : Prop :=
  ∀ a : ConfigArgs,
    (¬(1 ≤ a.maxIds ∧ a.maxIds ≤ 255 ∧ a.devAddr ≤ 0x7F ∧ a.geomLayout ≤ 1) → powerUp a = .refused .illegalConfig) ∧
    (1 ≤ a.maxIds ∧ a.maxIds ≤ 255 ∧ a.devAddr ≤ 0x7F ∧ a.geomLayout ≤ 1 → ∃ s, powerUp a = .next s ∧
      s.regs = ⟨1, 0, 0⟩ ∧ s.phase = .idle ∧ s.capacityExhausted = decide (1 ≥ a.maxIds) ∧
      s.cfg.confThreshold = a.confThreshold ∧ s.cfg.maxIds.toNat = a.maxIds ∧ s.cfg.devAddr.toNat = a.devAddr ∧
      s.cfg.calReg = a.calReg ∧ s.cfg.crc16 = a.crc16 ∧ s.cfg.geomLayout = (if a.geomLayout = 0 then .wh else .rb))

/-- R36, R45, R44: a step with an illegal configuration (R36), or from a state that violates an invariant of R44 (R45), is
refused. That every step makes the check, and not the start of a run only, is the model's reading (log 7, DEDUCED). -/
def Obligations.IllegalStartStatesAreRefused : Prop :=
  ∀ s : State,
    (s.cfg.maxIds = 0 → step s = .refused .illegalConfig) ∧
    (s.cfg.maxIds ≠ 0 →
      ¬(1 ≤ s.nextUnusedId.toNat ∧ s.nextUnusedId.toNat ≤ s.cfg.maxIds.toNat ∧ s.runLen.toNat ≤ 4 ∧ s.calRemaining.toNat ≤ 20 ∧
        (0 < s.calRemaining.toNat → s.runLen.toNat = 0)) →
      step s = .refused .illegalStart)

/-- R216, R199: a full read that does not give its 40 bytes makes the decoder read POISON. That the step is then a
model fault at the first missing offset is the model's reading (log 6, DEDUCED). -/
def Obligations.MissingByteOfAFullReadFaults : Prop :=
  ∀ s : State, s.cfg.legal = true → s.legalStart = true → s.nextInput.full = true → s.nextInput.rdData.length < 40 →
    step s = .fault (.poisonByte s.nextInput.rdData.length)

/-- R199, R194: from the reset state of a legal configuration no cycle of an environment that delivers the bytes it owes faults
or is refused, whatever it presents, and however long the run. Past the presented cycles the inputs are free values (log 3,
DESIGN CHOICE). -/
def Obligations.NoReachableCycleStops : Prop :=
  ∀ (c : Config) (ins : List CycleInput) (n : Nat), c.legal = true → (∀ i ∈ ins, i.whole = true) →
    ∃ ts, statesAfter n { State.ofConfig c with inputs := ins } = some ts ∧ ts.length = n

/-- R30, R31, R42: nothing but the three registers survives a cycle: two states with the same registers, configuration and
presented cycles step alike, whatever the outputs, calls and buffer of the last cycle. -/
def Obligations.NothingElseSurvivesACycle : Prop :=
  ∀ s t : State, s.cfg = t.cfg → s.nextUnusedId = t.nextUnusedId → s.runLen = t.runLen → s.calRemaining = t.calRemaining →
    s.inputs = t.inputs → s.cycleNo = t.cycleNo → step s = step t

/-- R176: the write's success result is read by no rule. -/
def Obligations.WriteResultIsReadByNoRule : Prop :=
  ∀ (s : State) (inp : CycleInput) (w : Bool), step (s.presenting inp) = step (s.presenting { inp with wrOk := w })

/-- R123, R95: two full reads that differ only in offsets 38 and 39 give the same outcome, registers, command and calls, and the
same frame but for its checksum field; only `crc_ok` may differ besides (log 14). -/
def Obligations.ChecksumNeverGates : Prop :=
  ∀ (s : State) (bs bs' : List Byte) (w : Bool), s.cfg.legal = true → s.legalStart = true → bs.length = 40 → bs'.length = 40 →
    bs.take 38 = bs'.take 38 → ∃ t t',
      step (s.presenting ⟨false, true, 40, bs, w⟩) = .next t ∧ step (s.presenting ⟨false, true, 40, bs', w⟩) = .next t' ∧
      t' = { t with crcOk := t'.crcOk, frame := t'.frame } ∧ dropChecksum t'.frame = dropChecksum t.frame

/-- R42, R95: the reserved bytes, data_size, the gap byte and the bytes of slots at and above num_faces reach no output but
`crc_ok` and the frame's own data_size field (the data_size exception: R88, log 14). -/
def Obligations.IgnoredBytesReachOnlyCrcAndDataSize : Prop :=
  ∀ (s : State) (bs bs' : List Byte) (w : Bool), s.cfg.legal = true → s.legalStart = true → bs.length = 40 → bs'.length = 40 →
    (∀ i, i < 40 → (i = 4 ∨ 38 ≤ i ∨ ((bs.getD 4 0).toNat ≤ 4 ∧ 5 ≤ i ∧ i < 5 + 8 * (bs.getD 4 0).toNat)) → bs[i]? = bs'[i]?) →
    ∃ t t', step (s.presenting ⟨false, true, 40, bs, w⟩) = .next t ∧ step (s.presenting ⟨false, true, 40, bs', w⟩) = .next t' ∧
      t' = { t with crcOk := t'.crcOk, frame := t'.frame } ∧ dropDataSize t'.frame = dropDataSize t.frame

/-- R98: GEOM_LAYOUT changes no outcome, state, command or frame value: under another layout every step is the same step. It
only names slot bytes 3 and 4. -/
def Obligations.GeometryLayoutOnlyNamesBytes : Prop :=
  ∀ (s : State) (g : GeomLayout),
    (∀ t, step s = .next t → step (s.withGeometry g) = .next (t.withGeometry g)) ∧
    (∀ e, step s = .fault e → step (s.withGeometry g) = .fault e) ∧
    (∀ e, step s = .refused e → step (s.withGeometry g) = .refused e) ∧
    ∀ r : FaceRecord, r.geometry .wh = .wh r.g3 r.g4 ∧ r.geometry .rb = .rb r.g3 r.g4

/-- R40: after every cycle `frame` is POISON unless the outcome is FRAME, `crc_ok` is POISON unless the read delivered 40
bytes, and the command fields are POISON unless cmd_valid = 1; each is driven otherwise. A POISON output faults its
reader (R199), through reading functions that are the model's (log 16, DESIGN CHOICE). -/
def Obligations.OutputsArePoisonExactlyWhereStated : Prop :=
  ∀ s t : State, s.cfg.legal = true → s.legalStart = true → step s = .next t →
    (t.outcome = .frame → ∃ f, t.readFrame = .ok f) ∧ (t.outcome ≠ .frame → t.frame = .poison ∧ t.readFrame = .error .poisonFrame) ∧
    (s.nextInput.full = true → ∃ b, t.readCrcOk = .ok b) ∧
    (s.nextInput.full = false → t.crcOk = .poison ∧ t.readCrcOk = .error .poisonCrcOk) ∧
    (t.cmdValid = true → ∃ c, t.readCmd = .ok c) ∧
    (t.cmdValid = false → t.cmdDev = .poison ∧ t.cmdReg = .poison ∧ t.cmdVal = .poison ∧ t.readCmd = .error .poisonCommand)

/-- R178, R147, R148: a cycle issues a command exactly when it is a FRAME cycle outside a countdown whose qualifying packet
completes the run with an identity left; it is then the one write `write(DEV_ADDR, CAL_REG, next_unused_id)`. -/
def Obligations.CommandsComeOnlyFromTriggers : Prop :=
  ∀ s t : State, s.cfg.legal = true → s.legalStart = true → step s = .next t →
    (t.cmdValid = true ↔ s.calRemaining = 0 ∧ s.runLen.toNat + 1 = 5 ∧ s.nextUnusedId.toNat < s.cfg.maxIds.toNat ∧
      qualifyingInput s.cfg s.nextInput = true) ∧
    (t.cmdValid = true → t.outcome = .frame ∧ t.readCmd = .ok (s.cfg.devAddr, s.cfg.calReg, s.nextUnusedId) ∧
      t.regs = ⟨s.nextUnusedId.toNat + 1, 0, 20⟩ ∧ t.calls = [.read s.cfg.devAddr 40, .write s.cfg.devAddr s.cfg.calReg s.nextUnusedId])

/-- R150: a countdown that reaches 0 ends in idle. -/
def Obligations.CountdownEndsInIdle : Prop :=
  ∀ s t : State, s.cfg.legal = true → s.legalStart = true → 0 < s.calRemaining.toNat → step s = .next t →
    t.calRemaining.toNat = 0 → t.phase = .idle

/-! Runs. -/

/-- R149, R151, R156, R142: over any cycles without a reset that hold at most cal_remaining FRAME cycles, whatever their
packets, no command is issued, and cal_remaining falls by one for each FRAME cycle and for no other. -/
def Obligations.CountdownCountsFramesAndIssuesNothing : Prop :=
  ∀ (n : Nat) (s : State) (ts : List State) (t : State), s.cfg.legal = true → s.legalStart = true →
    statesAfter n s = some ts → noReset ts = true → frameCount ts ≤ s.calRemaining.toNat → ts.getLast? = some t →
    payloads ts = [] ∧ t.calRemaining.toNat = s.calRemaining.toNat - frameCount ts ∧ t.runLen = s.runLen ∧
    t.nextUnusedId = s.nextUnusedId

/-- R153, R39: once the capacity is exhausted it stays so until reset, no trigger fires, and a run length of 0 stays 0. -/
def Obligations.CapacityExhaustionIsPermanent : Prop :=
  ∀ (n : Nat) (s : State) (ts : List State), s.cfg.legal = true → s.legalStart = true → s.capacityExhausted = true →
    statesAfter n s = some ts → noReset ts = true →
    payloads ts = [] ∧ ∀ t ∈ ts, t.capacityExhausted = true ∧ t.nextUnusedId = s.nextUnusedId ∧ (s.runLen = 0 → t.runLen = 0)

/-- R154: over any cycles without a reset the payloads are consecutive from next_unused_id on, and stay below MAX_IDS; from the
reset state they are 1, 2, ..., at most MAX_IDS - 1 of them. -/
def Obligations.PayloadsCountUpFromTheIdentityRegister : Prop :=
  (∀ (n : Nat) (s : State) (ts : List State), s.cfg.legal = true → s.legalStart = true →
    statesAfter n s = some ts → noReset ts = true →
    payloads ts = List.range' s.nextUnusedId.toNat (payloads ts).length ∧
    s.nextUnusedId.toNat + (payloads ts).length ≤ s.cfg.maxIds.toNat) ∧
  ∀ (n : Nat) (c : Config) (ins : List CycleInput) (ts : List State), c.legal = true →
    statesAfter n { State.ofConfig c with inputs := ins } = some ts → noReset ts = true →
    payloads ts = List.range' 1 (payloads ts).length ∧ (payloads ts).length ≤ c.maxIds.toNat - 1

/-- R155: two triggers with no reset between them are at least HYST_N + COUNTDOWN_N = 25 FRAME cycles apart. -/
def Obligations.TriggersAreAtLeast25FramesApart : Prop :=
  ∀ (n : Nat) (s : State) (ts : List State) (t : State), s.inv = true → s.cmdValid = true →
    statesAfter n s = some ts → noReset ts = true → ts.getLast? = some t → t.cmdValid = true → 25 ≤ frameCount ts

/-- R155, R156: from a run length of 0, a trigger comes only when the last five FRAME cycles, skipped cycles aside, all showed a
qualifying frame. -/
def Obligations.TriggersOnlyAfterFiveConsecutiveQualifyingFrames : Prop :=
  ∀ (n : Nat) (s : State) (ts : List State) (t : State), s.cfg.legal = true → s.legalStart = true → s.runLen = 0 →
    statesAfter n s = some ts → noReset ts = true → ts.getLast? = some t → t.cmdValid = true →
    5 ≤ (frameCycles ts).length ∧ ∀ u ∈ (frameCycles ts).drop ((frameCycles ts).length - 5), u.showsQualifying = true

/-- R155, R156: outside a countdown, with an identity left, the cycle that completes five consecutive qualifying FRAME cycles
triggers, and none before it does; skipped cycles between them neither break nor extend the run. -/
def Obligations.FiveQualifyingFramesTrigger : Prop :=
  ∀ (s : State) (front rest : List CycleInput) (last : CycleInput), s.cfg.legal = true → s.legalStart = true →
    s.calRemaining = 0 → s.nextUnusedId.toNat < s.cfg.maxIds.toNat → s.inputs = front ++ last :: rest →
    (∀ i ∈ front, i.skipped = true ∨ qualifyingInput s.cfg i = true) →
    front.countP (qualifyingInput s.cfg) + s.runLen.toNat = 4 → qualifyingInput s.cfg last = true →
    ∃ ts t, statesAfter (front.length + 1) s = some (ts ++ [t]) ∧ payloads ts = [] ∧
      t.payload = some s.nextUnusedId.toNat ∧ t.regs = ⟨s.nextUnusedId.toNat + 1, 0, 20⟩

/-! Invariants and the whole machine. -/

/-- R43, R44, R36: the register, configuration and buffer clauses of the invariant hold in the reset state of every legal
configuration, and at State.reset (whose configuration values are the model's, log 1). Its output and call clauses are here a
claim about the outputs before any cycle has run: the model's reading of R212's "as if" (log 10, DEDUCED, unsafe for that claim). -/
def Obligations.ResetStatesSatisfyTheInvariant : Prop :=
  (∀ (c : Config) (ins : List CycleInput), c.legal = true → ({ State.ofConfig c with inputs := ins } : State).inv = true) ∧
  State.reset.inv = true

/-- R44, R40, R37, R31, R36: every step keeps the invariant between cycles, and the configuration. -/
def Obligations.EveryStepKeepsTheInvariant : Prop :=
  ∀ s t : State, s.inv = true → step s = .next t → t.inv = true ∧ t.cfg = s.cfg

/-- R171, R140, R24: from a legal state, whatever the environment presents and delivers, the step answers exactly what the
spec's pseudocode `cycle(s, in)` gives on mathematical integers: registers and every output. -/
def Obligations.StepAgreesWithTheSpecsPseudocode : Prop :=
  ∀ s : State, s.cfg.legal = true → s.legalStart = true → s.nextInput.whole = true → ∃ t,
    step s = .next t ∧ cycleRef s.cfg s.regs s.nextInput = some (t.regs, t.outputs) ∧
    t.cfg = s.cfg ∧ t.inputs = s.inputs.tail ∧ t.cycleNo = s.cycleNo + 1
end

