-- ==== Sys2Proof/Laws/Crc.lean ====
section
/-! SUPPORT. The default CRC16 (40_decoder.md R113): its register step is linear over XOR and loses nothing, so two byte
sequences that leave the same register had the same register before their common tail. -/

namespace Sys2Proof.Machine

theorem crcBit_xor (a b : Half) : crcBit (a ^^^ b) = crcBit a ^^^ crcBit b := by
  simp only [crcBit, BitVec.msb_xor]
  cases a.msb <;> cases b.msb <;> simp [BitVec.shiftLeft_xor_distrib] <;> ac_nf
  simp [← BitVec.xor_assoc]

theorem crcBits_xor (n : Nat) (a b : Half) : crcBits n (a ^^^ b) = crcBits n a ^^^ crcBits n b := by
  induction n generalizing a b with
  | zero => rfl
  | succ n ih => simp only [crcBits, crcBit_xor, ih]

/-- A bit step sends only 0 to 0: with bit 15 set, the polynomial leaves bit 0 set. -/
theorem crcBit_eq_zero {a : Half} (h : crcBit a = 0) : a = 0 := by
  simp only [crcBit] at h
  split at h
  case isTrue =>
    have := congrArg (fun x => x.getLsbD 0) h
    simp at this
  case isFalse hm =>
    have h := congrArg BitVec.toNat h
    have := BitVec.msb_eq_false_iff_two_mul_lt.1 (by simpa using hm)
    apply BitVec.eq_of_toNat_eq
    simp [BitVec.toNat_shiftLeft, Nat.shiftLeft_eq] at h ⊢
    omega

theorem crcBits_eq_zero {n : Nat} {a : Half} (h : crcBits n a = 0) : a = 0 := by
  induction n generalizing a with
  | zero => exact h
  | succ n ih => exact crcBit_eq_zero (ih h)

/-- The bit steps are injective. -/
theorem crcBits_inj {n : Nat} {a b : Half} (h : crcBits n a = crcBits n b) : a = b := by
  apply BitVec.xor_eq_zero_iff.1
  apply crcBits_eq_zero (n := n)
  rw [crcBits_xor, h, BitVec.xor_self]
  rfl

/-- A common tail does not hide a difference of the register. -/
theorem foldl_crcByte_inj {ds : List Byte} {a b : Half} (h : ds.foldl crcByte a = ds.foldl crcByte b) : a = b := by
  induction ds generalizing a b with
  | nil => exact h
  | cons d ds ih => exact (BitVec.xor_left_inj _).1 (crcBits_inj (ih h))

end Sys2Proof.Machine
end

