-- ==== Sys2Proof/Laws/Encoding.lean ====
section
/-! SUPPORT. Byte order, and the packet's fields and bytes: what `parsePacket` and `encodePacket` do, once. -/

namespace Sys2Proof

theorem le16_loByte_hiByte (h : Half) : le16 (loByte h) (hiByte h) = h := by
  apply BitVec.eq_of_getLsbD_eq
  intro i hi
  simp only [le16, loByte, hiByte, BitVec.getLsbD_or, BitVec.getLsbD_setWidth, BitVec.getLsbD_shiftLeft,
    BitVec.getLsbD_ushiftRight]
  by_cases h8 : i < 8
  · simp [h8, hi]
  · have : 8 + (i - 8) = i := by omega
    have h2 : i - 8 < 8 := by omega
    simp [h8, hi, this, h2]
    intro _; omega

theorem loByte_le16 (lo hi : Byte) : loByte (le16 lo hi) = lo := by
  apply BitVec.eq_of_getLsbD_eq
  intro i h
  simp [le16, loByte, h]

theorem hiByte_le16 (lo hi : Byte) : hiByte (le16 lo hi) = hi := by
  apply BitVec.eq_of_getLsbD_eq
  intro i h
  have h2 : 8 + i < 16 := by omega
  simp [le16, hiByte, h, h2]

theorem le16_toNat (lo hi : Byte) : (le16 lo hi).toNat = lo.toNat + 256 * hi.toNat := by
  have hlo := lo.isLt
  have hhi := hi.isLt
  have h1 : (lo.toNat ||| hi.toNat <<< 8) = hi.toNat <<< 8 ||| lo.toNat := Nat.or_comm ..
  have h2 := Nat.shiftLeft_add_eq_or_of_lt (i := 8) (b := lo.toNat) (by omega) hi.toNat
  rw [Nat.shiftLeft_eq] at h2
  simp only [le16, BitVec.toNat_or, BitVec.toNat_setWidth, BitVec.toNat_shiftLeft, Nat.shiftLeft_eq] at *
  have h3 : lo.toNat % 2 ^ 16 = lo.toNat := by omega
  have h4 : hi.toNat % 2 ^ 16 * 2 ^ 8 % 2 ^ 16 = hi.toNat * 2 ^ 8 := by omega
  rw [h3, h4, h1, ← h2]; omega

theorem sext8_eq_toInt (b : Byte) : sext8 b = b.toInt := by
  have := b.isLt
  simp only [sext8, BitVec.toInt]
  split <;> split <;> omega

@[simp] theorem encodeFace_length (f : RawFace) : (encodeFace f).length = 8 := rfl

@[simp] theorem encodePacket_length (p : Packet) : (encodePacket p).length = pktLen := rfl

/-- The fields of a packet's bytes are the packet. -/
theorem parsePacket_encodePacket (p : Packet) : parsePacket (encodePacket p) = .ok p := by
  have h : parsePacket (encodePacket p) = .ok { p with
      dataSize := le16 (loByte p.dataSize) (hiByte p.dataSize)
      checksum := le16 (loByte p.checksum) (hiByte p.checksum) } := rfl
  rw [h, le16_loByte_hiByte, le16_loByte_hiByte]

/-- Another length is refused (R122). -/
theorem parsePacket_of_length_ne (bs : List Byte) (h : bs.length ≠ pktLen) :
    parsePacket bs = .error (.wrongLength bs.length) := by
  simp [parsePacket, h]

theorem parsePacket_ok {bs : List Byte} (h : bs.length = pktLen) : parsePacket bs = .ok (packetFields bs) := if_pos h

/-- Every byte of forty is in one field: the bytes of the fields are the bytes. -/
theorem encodePacket_of_parsePacket {bs : List Byte} {p : Packet} (h : parsePacket bs = .ok p) : encodePacket p = bs := by
  unfold parsePacket at h
  split at h
  case isFalse => cases h
  case isTrue hl =>
    cases h
    simp only [packetFields, encodePacket, encodeFace, loByte_le16, hiByte_le16, rawFaceAt, slotBase, faceRecLen]
    apply List.ext_getElem
    · simp [hl, pktLen]
    · intro i h1 h2
      have hi : i < 40 := by simpa [hl, pktLen] using h2
      have key : ∀ j, j < 40 → byteAt bs j = bs.getD j 0 := fun _ _ => rfl
      interval_cases i <;> simp [byteAt, List.getD_eq_getElem?_getD, h2]

/-- Forty bytes always have fields. -/
theorem parsePacket_of_length {bs : List Byte} (h : bs.length = pktLen) : ∃ p, parsePacket bs = .ok p ∧ encodePacket p = bs := by
  refine ⟨_, if_pos h, encodePacket_of_parsePacket (if_pos h)⟩

theorem encodePacket_packetFields {bs : List Byte} (h : bs.length = pktLen) : encodePacket (packetFields bs) = bs :=
  encodePacket_of_parsePacket (parsePacket_ok h)

theorem parsePacket_length {bs : List Byte} {p : Packet} (h : parsePacket bs = .ok p) : bs.length = pktLen := by
  rw [← encodePacket_of_parsePacket h]; rfl

end Sys2Proof
end

