-- ==== Sys2Proof/Laws/Rows.lean ====
section
/-! SUPPORT. The rows of opcode_table.json: the bit patterns select the values of 30_encoding.md R91, every byte has exactly
one row, and what the decoder gives back is well formed. -/

namespace Sys2Proof

/-- Each of the twelve patterns selects the values R91 gives it. -/
theorem patterns_select_values : ∀ b : Byte,
    ((b &&& 0xFF == 0x00) = decide (0 ≤ b.toInt ∧ b.toInt ≤ 0)) ∧
    ((b &&& 0xFF == 0x01) = decide (1 ≤ b.toInt ∧ b.toInt ≤ 1)) ∧
    ((b &&& 0xFF == 0x02) = decide (2 ≤ b.toInt ∧ b.toInt ≤ 2)) ∧
    ((b &&& 0xFF == 0x03) = decide (3 ≤ b.toInt ∧ b.toInt ≤ 3)) ∧
    ((b &&& 0xFF == 0x04) = decide (4 ≤ b.toInt ∧ b.toInt ≤ 4)) ∧
    ((b &&& 0xFF == 0x05) = decide (5 ≤ b.toInt ∧ b.toInt ≤ 5)) ∧
    ((b &&& 0xFE == 0x06) = decide (6 ≤ b.toInt ∧ b.toInt ≤ 7)) ∧
    ((b &&& 0xF8 == 0x08) = decide (8 ≤ b.toInt ∧ b.toInt ≤ 15)) ∧
    ((b &&& 0xF0 == 0x10) = decide (16 ≤ b.toInt ∧ b.toInt ≤ 31)) ∧
    ((b &&& 0xE0 == 0x20) = decide (32 ≤ b.toInt ∧ b.toInt ≤ 63)) ∧
    ((b &&& 0xC0 == 0x40) = decide (64 ≤ b.toInt ∧ b.toInt ≤ 127)) ∧
    ((b &&& 0x80 == 0x80) = decide (-128 ≤ b.toInt ∧ b.toInt ≤ -1)) := by
  decide +kernel

theorem Packet.facesIn_def (p : Packet) (lo hi : Int) :
    p.facesIn lo hi = decide (lo ≤ p.numFaces.toInt ∧ p.numFaces.toInt ≤ hi) := rfl

theorem Packet.facesIn_iff {p : Packet} {lo hi : Int} :
    p.facesIn lo hi = true ↔ lo ≤ p.numFaces.toInt ∧ p.numFaces.toInt ≤ hi := decide_eq_true_iff

theorem Packet.not_facesIn_iff {p : Packet} {lo hi : Int} :
    p.facesIn lo hi = false ↔ ¬(lo ≤ p.numFaces.toInt ∧ p.numFaces.toInt ≤ hi) := decide_eq_false_iff_not

/-- The class of a packet by the VALUE of its face count (R91). -/
theorem classify_eq (p : Packet) : classify p = .ok (
    if p.facesIn 0 0 then .decN0 p
    else if p.facesIn 1 1 then .decN1 p
    else if p.facesIn 2 2 then .decN2 p
    else if p.facesIn 3 3 then .decN3 p
    else if p.facesIn 4 4 then .decN4 p
    else if p.facesIn 5 5 then .decErr5 p
    else if p.facesIn 6 7 then .decErr6_7 p
    else if p.facesIn 8 15 then .decErr8_15 p
    else if p.facesIn 16 31 then .decErr16_31 p
    else if p.facesIn 32 63 then .decErr32_63 p
    else if p.facesIn 64 127 then .decErr64_127 p
    else .decErrNeg p) := by
  obtain ⟨h0, h1, h2, h3, h4, h5, h6, h8, h16, h32, h64, hn⟩ := patterns_select_values p.numFaces
  simp only [classify, pktRows, frameRows, errorRows, List.cons_append, List.nil_append, List.find?_cons, List.find?_nil,
    Row.hits, h0, h1, h2, h3, h4, h5, h6, h8, h16, h32, h64, hn, ← Packet.facesIn_def]
  cases e0 : p.facesIn 0 0
  case true => rfl
  cases e1 : p.facesIn 1 1
  case true => rfl
  cases e2 : p.facesIn 2 2
  case true => rfl
  cases e3 : p.facesIn 3 3
  case true => rfl
  cases e4 : p.facesIn 4 4
  case true => rfl
  cases e5 : p.facesIn 5 5
  case true => rfl
  cases e6 : p.facesIn 6 7
  case true => rfl
  cases e8 : p.facesIn 8 15
  case true => rfl
  cases e16 : p.facesIn 16 31
  case true => rfl
  cases e32 : p.facesIn 32 63
  case true => rfl
  cases e64 : p.facesIn 64 127
  case true => rfl
  have hlo := BitVec.le_two_mul_toInt (x := p.numFaces)
  have hhi := BitVec.two_mul_toInt_lt (x := p.numFaces)
  have en : p.facesIn (-128) (-1) = true := by
    simp only [Packet.facesIn_def, decide_eq_true_eq, decide_eq_false_iff_not] at *
    omega
  simp only [en, Bool.false_eq_true, if_false]

/-- The twelve cases of a packet: its class with the values of that row (R91). -/
theorem classify_cases (p : Packet) :
    (p.facesIn 0 0 = true ∧ classify p = .ok (.decN0 p)) ∨
    (p.facesIn 1 1 = true ∧ classify p = .ok (.decN1 p)) ∨
    (p.facesIn 2 2 = true ∧ classify p = .ok (.decN2 p)) ∨
    (p.facesIn 3 3 = true ∧ classify p = .ok (.decN3 p)) ∨
    (p.facesIn 4 4 = true ∧ classify p = .ok (.decN4 p)) ∨
    (p.facesIn 5 5 = true ∧ classify p = .ok (.decErr5 p)) ∨
    (p.facesIn 6 7 = true ∧ classify p = .ok (.decErr6_7 p)) ∨
    (p.facesIn 8 15 = true ∧ classify p = .ok (.decErr8_15 p)) ∨
    (p.facesIn 16 31 = true ∧ classify p = .ok (.decErr16_31 p)) ∨
    (p.facesIn 32 63 = true ∧ classify p = .ok (.decErr32_63 p)) ∨
    (p.facesIn 64 127 = true ∧ classify p = .ok (.decErr64_127 p)) ∨
    (p.facesIn (-128) (-1) = true ∧ classify p = .ok (.decErrNeg p)) := by
  have hc := classify_eq p
  cases e0 : p.facesIn 0 0
  case true => exact .inl ⟨rfl, by rw [hc]; simp only [e0, if_true]⟩
  cases e1 : p.facesIn 1 1
  case true => exact .inr (.inl ⟨rfl, by rw [hc]; simp only [e0, e1, if_true, Bool.false_eq_true, if_false]⟩)
  cases e2 : p.facesIn 2 2
  case true => exact .inr (.inr (.inl ⟨rfl, by rw [hc]; simp only [e0, e1, e2, if_true, Bool.false_eq_true, if_false]⟩))
  cases e3 : p.facesIn 3 3
  case true => exact .inr (.inr (.inr (.inl ⟨rfl, by rw [hc]; simp only [e0, e1, e2, e3, if_true, Bool.false_eq_true, if_false]⟩)))
  cases e4 : p.facesIn 4 4
  case true => exact .inr (.inr (.inr (.inr (.inl ⟨rfl, by rw [hc]; simp only [e0, e1, e2, e3, e4, if_true, Bool.false_eq_true, if_false]⟩))))
  cases e5 : p.facesIn 5 5
  case true => exact .inr (.inr (.inr (.inr (.inr (.inl ⟨rfl, by rw [hc]; simp only [e0, e1, e2, e3, e4, e5, if_true, Bool.false_eq_true, if_false]⟩)))))
  cases e6 : p.facesIn 6 7
  case true => exact .inr (.inr (.inr (.inr (.inr (.inr (.inl ⟨rfl, by rw [hc]; simp only [e0, e1, e2, e3, e4, e5, e6, if_true, Bool.false_eq_true, if_false]⟩))))))
  cases e8 : p.facesIn 8 15
  case true => exact .inr (.inr (.inr (.inr (.inr (.inr (.inr (.inl ⟨rfl, by rw [hc]; simp only [e0, e1, e2, e3, e4, e5, e6, e8, if_true, Bool.false_eq_true, if_false]⟩)))))))
  cases e16 : p.facesIn 16 31
  case true => exact .inr (.inr (.inr (.inr (.inr (.inr (.inr (.inr (.inl ⟨rfl, by rw [hc]; simp only [e0, e1, e2, e3, e4, e5, e6, e8, e16, if_true, Bool.false_eq_true, if_false]⟩))))))))
  cases e32 : p.facesIn 32 63
  case true => exact .inr (.inr (.inr (.inr (.inr (.inr (.inr (.inr (.inr (.inl ⟨rfl, by rw [hc]; simp only [e0, e1, e2, e3, e4, e5, e6, e8, e16, e32, if_true, Bool.false_eq_true, if_false]⟩)))))))))
  cases e64 : p.facesIn 64 127
  case true => exact .inr (.inr (.inr (.inr (.inr (.inr (.inr (.inr (.inr (.inr (.inl ⟨rfl, by rw [hc]; simp only [e0, e1, e2, e3, e4, e5, e6, e8, e16, e32, e64, if_true, Bool.false_eq_true, if_false]⟩))))))))))
  have hlo := BitVec.le_two_mul_toInt (x := p.numFaces)
  have hhi := BitVec.two_mul_toInt_lt (x := p.numFaces)
  have en : p.facesIn (-128) (-1) = true := by
    simp only [Packet.facesIn_def, decide_eq_true_eq, decide_eq_false_iff_not] at *
    omega
  exact .inr (.inr (.inr (.inr (.inr (.inr (.inr (.inr (.inr (.inr (.inr (⟨en, by rw [hc]; simp only [e0, e1, e2, e3, e4, e5, e6, e8, e16, e32, e64, Bool.false_eq_true, if_false]⟩)))))))))))

/-- The bounds a well-formed packet's face count keeps. -/
theorem Packet.bounds_of_facesIn {p : Packet} {lo hi : Int} (h : p.facesIn lo hi = true) :
    lo ≤ p.numFaces.toInt ∧ p.numFaces.toInt ≤ hi := of_decide_eq_true h

/-- The decoder never runs out of rows (R91). -/
theorem classify_ok (p : Packet) : ∃ i, classify p = .ok i := ⟨_, classify_eq p⟩

end Sys2Proof
end

