-- ==== Sys2Proof/Laws/State.lean ====
section
/-! SUPPORT. One lemma for each field of `State` under each named update, so that no proof unfolds a record update. -/

namespace Sys2Proof.Machine

section Updates
variable (s : State)

@[simp] theorem State.popInput_cfg : (s.popInput).cfg = s.cfg := rfl
@[simp] theorem State.popInput_nextUnusedId : (s.popInput).nextUnusedId = s.nextUnusedId := rfl
@[simp] theorem State.popInput_runLen : (s.popInput).runLen = s.runLen := rfl
@[simp] theorem State.popInput_calRemaining : (s.popInput).calRemaining = s.calRemaining := rfl
@[simp] theorem State.popInput_buf : (s.popInput).buf = s.buf := rfl
@[simp] theorem State.popInput_outcome : (s.popInput).outcome = s.outcome := rfl
@[simp] theorem State.popInput_frame : (s.popInput).frame = s.frame := rfl
@[simp] theorem State.popInput_crcOk : (s.popInput).crcOk = s.crcOk := rfl
@[simp] theorem State.popInput_cmdValid : (s.popInput).cmdValid = s.cmdValid := rfl
@[simp] theorem State.popInput_cmdDev : (s.popInput).cmdDev = s.cmdDev := rfl
@[simp] theorem State.popInput_cmdReg : (s.popInput).cmdReg = s.cmdReg := rfl
@[simp] theorem State.popInput_cmdVal : (s.popInput).cmdVal = s.cmdVal := rfl
@[simp] theorem State.popInput_calls : (s.popInput).calls = s.calls := rfl
@[simp] theorem State.popInput_inputs : (s.popInput).inputs = s.inputs.tail := rfl
@[simp] theorem State.popInput_cycleNo : (s.popInput).cycleNo = s.cycleNo + 1 := rfl

@[simp] theorem State.present_cfg (inp : CycleInput) : (s.present inp).cfg = s.cfg := rfl
@[simp] theorem State.present_nextUnusedId (inp : CycleInput) : (s.present inp).nextUnusedId = s.nextUnusedId := rfl
@[simp] theorem State.present_runLen (inp : CycleInput) : (s.present inp).runLen = s.runLen := rfl
@[simp] theorem State.present_calRemaining (inp : CycleInput) : (s.present inp).calRemaining = s.calRemaining := rfl
@[simp] theorem State.present_buf (inp : CycleInput) : (s.present inp).buf = (if inp.rst then [] else Memory.fill inp.delivered) := rfl
@[simp] theorem State.present_outcome (inp : CycleInput) : (s.present inp).outcome = s.outcome := rfl
@[simp] theorem State.present_frame (inp : CycleInput) : (s.present inp).frame = .poison := rfl
@[simp] theorem State.present_crcOk (inp : CycleInput) : (s.present inp).crcOk = .poison := rfl
@[simp] theorem State.present_cmdValid (inp : CycleInput) : (s.present inp).cmdValid = false := rfl
@[simp] theorem State.present_cmdDev (inp : CycleInput) : (s.present inp).cmdDev = .poison := rfl
@[simp] theorem State.present_cmdReg (inp : CycleInput) : (s.present inp).cmdReg = .poison := rfl
@[simp] theorem State.present_cmdVal (inp : CycleInput) : (s.present inp).cmdVal = .poison := rfl
@[simp] theorem State.present_calls (inp : CycleInput) : (s.present inp).calls = (if inp.rst then [] else [.read s.cfg.devAddr pktLen]) := rfl
@[simp] theorem State.present_inputs (inp : CycleInput) : (s.present inp).inputs = s.inputs := rfl
@[simp] theorem State.present_cycleNo (inp : CycleInput) : (s.present inp).cycleNo = s.cycleNo := rfl

@[simp] theorem State.discardBuf_cfg : (s.discardBuf).cfg = s.cfg := rfl
@[simp] theorem State.discardBuf_nextUnusedId : (s.discardBuf).nextUnusedId = s.nextUnusedId := rfl
@[simp] theorem State.discardBuf_runLen : (s.discardBuf).runLen = s.runLen := rfl
@[simp] theorem State.discardBuf_calRemaining : (s.discardBuf).calRemaining = s.calRemaining := rfl
@[simp] theorem State.discardBuf_buf : (s.discardBuf).buf = [] := rfl
@[simp] theorem State.discardBuf_outcome : (s.discardBuf).outcome = s.outcome := rfl
@[simp] theorem State.discardBuf_frame : (s.discardBuf).frame = s.frame := rfl
@[simp] theorem State.discardBuf_crcOk : (s.discardBuf).crcOk = s.crcOk := rfl
@[simp] theorem State.discardBuf_cmdValid : (s.discardBuf).cmdValid = s.cmdValid := rfl
@[simp] theorem State.discardBuf_cmdDev : (s.discardBuf).cmdDev = s.cmdDev := rfl
@[simp] theorem State.discardBuf_cmdReg : (s.discardBuf).cmdReg = s.cmdReg := rfl
@[simp] theorem State.discardBuf_cmdVal : (s.discardBuf).cmdVal = s.cmdVal := rfl
@[simp] theorem State.discardBuf_calls : (s.discardBuf).calls = s.calls := rfl
@[simp] theorem State.discardBuf_inputs : (s.discardBuf).inputs = s.inputs := rfl
@[simp] theorem State.discardBuf_cycleNo : (s.discardBuf).cycleNo = s.cycleNo := rfl

@[simp] theorem State.report_cfg (o : CycleOutcome) (f : Sig Frame) : (s.report o f).cfg = s.cfg := rfl
@[simp] theorem State.report_nextUnusedId (o : CycleOutcome) (f : Sig Frame) : (s.report o f).nextUnusedId = s.nextUnusedId := rfl
@[simp] theorem State.report_runLen (o : CycleOutcome) (f : Sig Frame) : (s.report o f).runLen = s.runLen := rfl
@[simp] theorem State.report_calRemaining (o : CycleOutcome) (f : Sig Frame) : (s.report o f).calRemaining = s.calRemaining := rfl
@[simp] theorem State.report_buf (o : CycleOutcome) (f : Sig Frame) : (s.report o f).buf = s.buf := rfl
@[simp] theorem State.report_outcome (o : CycleOutcome) (f : Sig Frame) : (s.report o f).outcome = o := rfl
@[simp] theorem State.report_frame (o : CycleOutcome) (f : Sig Frame) : (s.report o f).frame = f := rfl
@[simp] theorem State.report_crcOk (o : CycleOutcome) (f : Sig Frame) : (s.report o f).crcOk = s.crcOk := rfl
@[simp] theorem State.report_cmdValid (o : CycleOutcome) (f : Sig Frame) : (s.report o f).cmdValid = s.cmdValid := rfl
@[simp] theorem State.report_cmdDev (o : CycleOutcome) (f : Sig Frame) : (s.report o f).cmdDev = s.cmdDev := rfl
@[simp] theorem State.report_cmdReg (o : CycleOutcome) (f : Sig Frame) : (s.report o f).cmdReg = s.cmdReg := rfl
@[simp] theorem State.report_cmdVal (o : CycleOutcome) (f : Sig Frame) : (s.report o f).cmdVal = s.cmdVal := rfl
@[simp] theorem State.report_calls (o : CycleOutcome) (f : Sig Frame) : (s.report o f).calls = s.calls := rfl
@[simp] theorem State.report_inputs (o : CycleOutcome) (f : Sig Frame) : (s.report o f).inputs = s.inputs := rfl
@[simp] theorem State.report_cycleNo (o : CycleOutcome) (f : Sig Frame) : (s.report o f).cycleNo = s.cycleNo := rfl

@[simp] theorem State.raise_cfg (o : CycleOutcome) : (s.raise o).cfg = s.cfg := rfl
@[simp] theorem State.raise_nextUnusedId (o : CycleOutcome) : (s.raise o).nextUnusedId = s.nextUnusedId := rfl
@[simp] theorem State.raise_runLen (o : CycleOutcome) : (s.raise o).runLen = s.runLen := rfl
@[simp] theorem State.raise_calRemaining (o : CycleOutcome) : (s.raise o).calRemaining = s.calRemaining := rfl
@[simp] theorem State.raise_buf (o : CycleOutcome) : (s.raise o).buf = s.buf := rfl
@[simp] theorem State.raise_outcome (o : CycleOutcome) : (s.raise o).outcome = o := rfl
@[simp] theorem State.raise_frame (o : CycleOutcome) : (s.raise o).frame = .poison := rfl
@[simp] theorem State.raise_crcOk (o : CycleOutcome) : (s.raise o).crcOk = s.crcOk := rfl
@[simp] theorem State.raise_cmdValid (o : CycleOutcome) : (s.raise o).cmdValid = s.cmdValid := rfl
@[simp] theorem State.raise_cmdDev (o : CycleOutcome) : (s.raise o).cmdDev = s.cmdDev := rfl
@[simp] theorem State.raise_cmdReg (o : CycleOutcome) : (s.raise o).cmdReg = s.cmdReg := rfl
@[simp] theorem State.raise_cmdVal (o : CycleOutcome) : (s.raise o).cmdVal = s.cmdVal := rfl
@[simp] theorem State.raise_calls (o : CycleOutcome) : (s.raise o).calls = s.calls := rfl
@[simp] theorem State.raise_inputs (o : CycleOutcome) : (s.raise o).inputs = s.inputs := rfl
@[simp] theorem State.raise_cycleNo (o : CycleOutcome) : (s.raise o).cycleNo = s.cycleNo := rfl

@[simp] theorem State.driveCrc_cfg (b : Bool) : (s.driveCrc b).cfg = s.cfg := rfl
@[simp] theorem State.driveCrc_nextUnusedId (b : Bool) : (s.driveCrc b).nextUnusedId = s.nextUnusedId := rfl
@[simp] theorem State.driveCrc_runLen (b : Bool) : (s.driveCrc b).runLen = s.runLen := rfl
@[simp] theorem State.driveCrc_calRemaining (b : Bool) : (s.driveCrc b).calRemaining = s.calRemaining := rfl
@[simp] theorem State.driveCrc_buf (b : Bool) : (s.driveCrc b).buf = s.buf := rfl
@[simp] theorem State.driveCrc_outcome (b : Bool) : (s.driveCrc b).outcome = s.outcome := rfl
@[simp] theorem State.driveCrc_frame (b : Bool) : (s.driveCrc b).frame = s.frame := rfl
@[simp] theorem State.driveCrc_crcOk (b : Bool) : (s.driveCrc b).crcOk = .drives b := rfl
@[simp] theorem State.driveCrc_cmdValid (b : Bool) : (s.driveCrc b).cmdValid = s.cmdValid := rfl
@[simp] theorem State.driveCrc_cmdDev (b : Bool) : (s.driveCrc b).cmdDev = s.cmdDev := rfl
@[simp] theorem State.driveCrc_cmdReg (b : Bool) : (s.driveCrc b).cmdReg = s.cmdReg := rfl
@[simp] theorem State.driveCrc_cmdVal (b : Bool) : (s.driveCrc b).cmdVal = s.cmdVal := rfl
@[simp] theorem State.driveCrc_calls (b : Bool) : (s.driveCrc b).calls = s.calls := rfl
@[simp] theorem State.driveCrc_inputs (b : Bool) : (s.driveCrc b).inputs = s.inputs := rfl
@[simp] theorem State.driveCrc_cycleNo (b : Bool) : (s.driveCrc b).cycleNo = s.cycleNo := rfl

@[simp] theorem State.undriveCrc_cfg : (s.undriveCrc).cfg = s.cfg := rfl
@[simp] theorem State.undriveCrc_nextUnusedId : (s.undriveCrc).nextUnusedId = s.nextUnusedId := rfl
@[simp] theorem State.undriveCrc_runLen : (s.undriveCrc).runLen = s.runLen := rfl
@[simp] theorem State.undriveCrc_calRemaining : (s.undriveCrc).calRemaining = s.calRemaining := rfl
@[simp] theorem State.undriveCrc_buf : (s.undriveCrc).buf = s.buf := rfl
@[simp] theorem State.undriveCrc_outcome : (s.undriveCrc).outcome = s.outcome := rfl
@[simp] theorem State.undriveCrc_frame : (s.undriveCrc).frame = s.frame := rfl
@[simp] theorem State.undriveCrc_crcOk : (s.undriveCrc).crcOk = .poison := rfl
@[simp] theorem State.undriveCrc_cmdValid : (s.undriveCrc).cmdValid = s.cmdValid := rfl
@[simp] theorem State.undriveCrc_cmdDev : (s.undriveCrc).cmdDev = s.cmdDev := rfl
@[simp] theorem State.undriveCrc_cmdReg : (s.undriveCrc).cmdReg = s.cmdReg := rfl
@[simp] theorem State.undriveCrc_cmdVal : (s.undriveCrc).cmdVal = s.cmdVal := rfl
@[simp] theorem State.undriveCrc_calls : (s.undriveCrc).calls = s.calls := rfl
@[simp] theorem State.undriveCrc_inputs : (s.undriveCrc).inputs = s.inputs := rfl
@[simp] theorem State.undriveCrc_cycleNo : (s.undriveCrc).cycleNo = s.cycleNo := rfl

@[simp] theorem State.noCommand_cfg : (s.noCommand).cfg = s.cfg := rfl
@[simp] theorem State.noCommand_nextUnusedId : (s.noCommand).nextUnusedId = s.nextUnusedId := rfl
@[simp] theorem State.noCommand_runLen : (s.noCommand).runLen = s.runLen := rfl
@[simp] theorem State.noCommand_calRemaining : (s.noCommand).calRemaining = s.calRemaining := rfl
@[simp] theorem State.noCommand_buf : (s.noCommand).buf = s.buf := rfl
@[simp] theorem State.noCommand_outcome : (s.noCommand).outcome = s.outcome := rfl
@[simp] theorem State.noCommand_frame : (s.noCommand).frame = s.frame := rfl
@[simp] theorem State.noCommand_crcOk : (s.noCommand).crcOk = s.crcOk := rfl
@[simp] theorem State.noCommand_cmdValid : (s.noCommand).cmdValid = false := rfl
@[simp] theorem State.noCommand_cmdDev : (s.noCommand).cmdDev = .poison := rfl
@[simp] theorem State.noCommand_cmdReg : (s.noCommand).cmdReg = .poison := rfl
@[simp] theorem State.noCommand_cmdVal : (s.noCommand).cmdVal = .poison := rfl
@[simp] theorem State.noCommand_calls : (s.noCommand).calls = s.calls := rfl
@[simp] theorem State.noCommand_inputs : (s.noCommand).inputs = s.inputs := rfl
@[simp] theorem State.noCommand_cycleNo : (s.noCommand).cycleNo = s.cycleNo := rfl

@[simp] theorem State.issueWrite_cfg (reg val : Byte) : (s.issueWrite reg val).cfg = s.cfg := rfl
@[simp] theorem State.issueWrite_nextUnusedId (reg val : Byte) : (s.issueWrite reg val).nextUnusedId = s.nextUnusedId := rfl
@[simp] theorem State.issueWrite_runLen (reg val : Byte) : (s.issueWrite reg val).runLen = s.runLen := rfl
@[simp] theorem State.issueWrite_calRemaining (reg val : Byte) : (s.issueWrite reg val).calRemaining = s.calRemaining := rfl
@[simp] theorem State.issueWrite_buf (reg val : Byte) : (s.issueWrite reg val).buf = s.buf := rfl
@[simp] theorem State.issueWrite_outcome (reg val : Byte) : (s.issueWrite reg val).outcome = s.outcome := rfl
@[simp] theorem State.issueWrite_frame (reg val : Byte) : (s.issueWrite reg val).frame = s.frame := rfl
@[simp] theorem State.issueWrite_crcOk (reg val : Byte) : (s.issueWrite reg val).crcOk = s.crcOk := rfl
@[simp] theorem State.issueWrite_cmdValid (reg val : Byte) : (s.issueWrite reg val).cmdValid = true := rfl
@[simp] theorem State.issueWrite_cmdDev (reg val : Byte) : (s.issueWrite reg val).cmdDev = .drives s.cfg.devAddr := rfl
@[simp] theorem State.issueWrite_cmdReg (reg val : Byte) : (s.issueWrite reg val).cmdReg = .drives reg := rfl
@[simp] theorem State.issueWrite_cmdVal (reg val : Byte) : (s.issueWrite reg val).cmdVal = .drives val := rfl
@[simp] theorem State.issueWrite_calls (reg val : Byte) : (s.issueWrite reg val).calls = s.calls ++ [.write s.cfg.devAddr reg val] := rfl
@[simp] theorem State.issueWrite_inputs (reg val : Byte) : (s.issueWrite reg val).inputs = s.inputs := rfl
@[simp] theorem State.issueWrite_cycleNo (reg val : Byte) : (s.issueWrite reg val).cycleNo = s.cycleNo := rfl

@[simp] theorem State.setRegs_cfg (i r c : Byte) : (s.setRegs i r c).cfg = s.cfg := rfl
@[simp] theorem State.setRegs_nextUnusedId (i r c : Byte) : (s.setRegs i r c).nextUnusedId = i := rfl
@[simp] theorem State.setRegs_runLen (i r c : Byte) : (s.setRegs i r c).runLen = r := rfl
@[simp] theorem State.setRegs_calRemaining (i r c : Byte) : (s.setRegs i r c).calRemaining = c := rfl
@[simp] theorem State.setRegs_buf (i r c : Byte) : (s.setRegs i r c).buf = s.buf := rfl
@[simp] theorem State.setRegs_outcome (i r c : Byte) : (s.setRegs i r c).outcome = s.outcome := rfl
@[simp] theorem State.setRegs_frame (i r c : Byte) : (s.setRegs i r c).frame = s.frame := rfl
@[simp] theorem State.setRegs_crcOk (i r c : Byte) : (s.setRegs i r c).crcOk = s.crcOk := rfl
@[simp] theorem State.setRegs_cmdValid (i r c : Byte) : (s.setRegs i r c).cmdValid = s.cmdValid := rfl
@[simp] theorem State.setRegs_cmdDev (i r c : Byte) : (s.setRegs i r c).cmdDev = s.cmdDev := rfl
@[simp] theorem State.setRegs_cmdReg (i r c : Byte) : (s.setRegs i r c).cmdReg = s.cmdReg := rfl
@[simp] theorem State.setRegs_cmdVal (i r c : Byte) : (s.setRegs i r c).cmdVal = s.cmdVal := rfl
@[simp] theorem State.setRegs_calls (i r c : Byte) : (s.setRegs i r c).calls = s.calls := rfl
@[simp] theorem State.setRegs_inputs (i r c : Byte) : (s.setRegs i r c).inputs = s.inputs := rfl
@[simp] theorem State.setRegs_cycleNo (i r c : Byte) : (s.setRegs i r c).cycleNo = s.cycleNo := rfl

end Updates

end Sys2Proof.Machine
end

