-- ==== Sys2Proof/Laws/Ops.lean ====
section
/-! SUPPORT. What each shared operation does, said once: sequencing, the packet buffer, the trigger predicate, the selection
of a controller operation. -/

namespace Sys2Proof.Machine

/-! Sequencing. -/

@[simp] theorem andThen_next (s : State) (k) : andThen (.next s) k = k s := rfl
@[simp] theorem andThen_fault (f : Fault) (k) : andThen (.fault f) k = .fault f := rfl
@[simp] theorem andThen_refused (r : Refusal) (k) : andThen (.refused r) k = .refused r := rfl

/-- A sequence answers a next state exactly when both parts do. -/
theorem andThen_eq_next {o : Host.Outcome State Fault Refusal} {k} {t : State} :
    andThen o k = .next t ↔ ∃ u, o = .next u ∧ k u = .next t := by
  cases o <;> simp

/-! The legal start states (R44) and configurations (R36). -/

theorem Config.legal_iff {c : Config} : c.legal = true ↔ 1 ≤ c.maxIds.toNat := decide_eq_true_iff

theorem legalStart_iff {s : State} : s.legalStart = true ↔
    1 ≤ s.nextUnusedId.toNat ∧ s.nextUnusedId.toNat ≤ s.cfg.maxIds.toNat ∧ s.runLen.toNat ≤ 4 ∧ s.calRemaining.toNat ≤ 20 ∧
      (s.calRemaining.toNat = 0 ∨ s.runLen.toNat = 0) := by
  simp only [State.legalStart, Bool.and_eq_true, Bool.or_eq_true, decide_eq_true_iff, and_assoc]
  exact Iff.rfl

/-! The packet buffer. -/

theorem wfFrom_fillFrom (bs : List Byte) (a : Nat) (h : a + bs.length ≤ pktLen) :
    Memory.wfFrom a (Memory.fillFrom a bs) = true := by
  induction bs generalizing a with
  | nil => rfl
  | cons b bs ih =>
    simp only [List.length_cons] at h
    simp only [Memory.fillFrom, Memory.wfFrom, Bool.and_eq_true, decide_eq_true_eq]
    exact ⟨⟨Nat.le_refl a, by omega⟩, ih (a + 1) (by omega)⟩

/-- A bus read leaves the buffer in its canonical form. -/
theorem wf_fill (bs : List Byte) : Memory.wf (Memory.fill bs) = true := by
  apply wfFrom_fillFrom
  simp

/-- Discarding the buffer leaves it in its canonical form. -/
theorem wf_discardBuf (s : State) : Memory.wf s.discardBuf.buf = true := rfl

/-- The start of a cycle leaves the buffer in its canonical form. -/
theorem wf_present (inp : CycleInput) (s : State) : Memory.wf (s.present inp).buf = true := by
  rw [State.present_buf]
  split
  · rfl
  · exact wf_fill _

/-- At reset the buffer has its canonical form. -/
theorem wf_reset : Memory.wf State.reset.buf = true := rfl

theorem find_fillFrom (bs : List Byte) (a x : Nat) :
    Memory.find (Memory.fillFrom a bs) x = if a ≤ x then bs[x - a]? else none := by
  induction bs generalizing a with
  | nil => simp [Memory.fillFrom, Memory.find]
  | cons b bs ih =>
    simp only [Memory.fillFrom, Memory.find, ih]
    by_cases h1 : a = x
    · simp [h1]
    · by_cases h2 : a ≤ x
      · have h3 : a + 1 ≤ x := by omega
        have h4 : x - a = (x - (a + 1)) + 1 := by omega
        simp [h1, h2, h3, h4]
      · have h3 : ¬ a + 1 ≤ x := by omega
        simp [h1, h2, h3]

/-- A byte of the buffer after a bus read is the byte delivered at that offset; an offset not delivered is POISON. -/
theorem read_fill (bs : List Byte) (x : Nat) (h : x < pktLen) :
    Memory.read (Memory.fill bs) x = match bs[x]? with | some b => .ok b | none => .error (.poisonByte x) := by
  have h' : ¬ pktLen ≤ x := by omega
  simp only [Memory.read, h', if_false, Memory.fill, find_fillFrom, Nat.zero_le, if_true, Nat.sub_zero]
  cases hb : bs[x]? <;> simp only [List.getElem?_take_of_lt h, hb]

theorem readRange_fill (bs : List Byte) (n a : Nat) (h : a + n ≤ pktLen) (hb : a + n ≤ bs.length) :
    Memory.readRange (Memory.fill bs) a n = .ok ((bs.drop a).take n) := by
  induction n generalizing a with
  | zero => rfl
  | succ n ih =>
    have ha : a < bs.length := by omega
    simp only [Memory.readRange, read_fill bs a (by omega), List.getElem?_eq_getElem ha]
    rw [ih (a + 1) (by omega) (by omega)]
    rw [List.drop_eq_getElem_cons ha, List.take_succ_cons]

/-- Where too few bytes were delivered, the first missing one is read, and it is POISON. -/
theorem readRange_fill_short (bs : List Byte) (n a : Nat) (h : a + n ≤ pktLen) (ha : a ≤ bs.length)
    (hb : bs.length < a + n) : Memory.readRange (Memory.fill bs) a n = .error (.poisonByte bs.length) := by
  induction n generalizing a with
  | zero => omega
  | succ n ih =>
    rw [Memory.readRange, read_fill bs a (by omega)]
    by_cases h1 : a = bs.length
    · simp [h1]
    · have h2 : a < bs.length := by omega
      simp only [List.getElem?_eq_getElem h2]
      rw [ih (a + 1) (by omega) (by omega) (by omega)]

/-- A full read of forty bytes fetches them. -/
theorem fetchBytes_full {inp : CycleInput} {s : State} (h : inp.full = true) (hl : pktLen ≤ inp.rdData.length) :
    fetchBytes inp (s.present inp) = .ok (inp.rdData.take pktLen) := by
  simp only [CycleInput.full, Bool.and_eq_true, Bool.not_eq_true', beq_iff_eq] at h
  obtain ⟨⟨h1, h2⟩, h3⟩ := h
  have hd : inp.delivered = inp.rdData.take pktLen := by simp [CycleInput.delivered, h3]
  simp only [fetchBytes, CycleInput.full, h1, h2, h3, State.present_buf, hd]
  rw [if_pos (by rfl), if_neg (by simp), readRange_fill _ _ _ (by omega) (by simp; omega)]
  simp

/-- Any other input fetches nothing. -/
theorem fetchBytes_not_full {inp : CycleInput} {s : State} (h : inp.full = false) : fetchBytes inp s = .ok [] := by
  simp [fetchBytes, h]

/-! The decoder's own contract, and the frame it assembles. -/

/-- On a face count in 0..4, read signed, DECODE gives the frame (R110). -/
theorem decodeFrame_of_facesIn {p : Packet} (h : p.facesIn 0 4 = true) :
    decodeFrame p = .ok (frameOf p.numFaces.toNat p) := by
  have h := Packet.facesIn_iff.1 h
  have hi := BitVec.toInt_eq_toNat_cond p.numFaces
  simp only [decodeFrame, sext8_eq_toInt, maxFaces]
  rw [if_neg (by omega)]
  congr 2
  split at hi <;> omega

/-- On any other face count it gives the error (R112). -/
theorem decodeFrame_of_not_facesIn {p : Packet} (h : p.facesIn 0 4 = false) :
    decodeFrame p = .error .faceCountOutOfRange := by
  have h := Packet.not_facesIn_iff.1 h
  simp only [decodeFrame, sext8_eq_toInt, maxFaces]
  rw [if_pos (by omega)]

/-- The wire record of slot `k`. -/
theorem frameOf_slot (nf : Nat) (p : Packet) (k : Fin 4) : (frameOf nf p).slot k =
    slotSig k.val nf (match k with | 0 => p.slot0 | 1 => p.slot1 | 2 => p.slot2 | 3 => p.slot3) := by
  match k with
  | 0 | 1 | 2 | 3 => rfl

/-- Against a packet's bytes, the checksum covers offsets 0 to 37 and stands little-endian at 38 (R113). -/
theorem crcMatches_packetFields (c : Crc16Arg) {bs : List Byte} (h : bs.length = pktLen) :
    crcMatches c (packetFields bs) =
      decide ((crc16 c (bs.take 38)).toNat = (byteAt bs 38).toNat + 256 * (byteAt bs 39).toNat) := by
  have hc : (packetFields bs).checksum = le16 (byteAt bs 38) (byteAt bs 39) := rfl
  simp only [crcMatches, coveredBytes, encodePacket_packetFields h, hc, ← le16_toNat, BitVec.toNat_inj, beq_eq_decide]

/-! The trigger predicate. -/

/-- The predicate is false, whatever the slots hold, unless there is exactly one face (R144). -/
theorem triggerPredicate_of_faces_ne {s : State} {f : Frame} (h : s.frame = .drives f) (hn : f.numFaces ≠ 1) :
    triggerPredicate s = .ok false := by
  rw [triggerPredicate, h]
  exact if_pos hn

/-- On one face the predicate is the conjunction of its four other terms (R144). -/
theorem triggerPredicate_of_one {s : State} {f : Frame} {r : FaceRecord} (h : s.frame = .drives f)
    (hn : f.numFaces = 1) (hr : f.slot0 = .drives r) :
    triggerPredicate s = .ok (decide (s.cfg.confThreshold.toNat ≤ r.boxConfidence.toNat) && r.idConfidence == 0
      && facing r.isFacing && decide (s.nextUnusedId.toNat < s.cfg.maxIds.toNat)) := by
  simp [triggerPredicate, h, hn, hr]

/-- The predicate reads the frame output, the identity register and the configuration, and nothing else. -/
theorem triggerPredicate_congr {s t : State} (hf : s.frame = t.frame) (hi : s.nextUnusedId = t.nextUnusedId)
    (hc : s.cfg = t.cfg) : triggerPredicate s = triggerPredicate t := by
  simp only [triggerPredicate, hf, hi, hc]

/-! The controller operations. -/

/-- Where an evaluating operation answers a next state, the cycle evaluates, the predicate has the wanted value, and the
operation's own effect answers that state. -/
theorem whenEvaluated_eq_next {want : Bool} {k} {s t : State} :
    whenEvaluated want k s = .next t ↔
      s.outcome = .frame ∧ s.calRemaining = 0 ∧ triggerPredicate s = .ok want ∧ k s = .next t := by
  unfold whenEvaluated
  split
  case isTrue h =>
    cases hq : triggerPredicate s with
    | error f => simp
    | ok q => by_cases hw : q = want <;> simp [hw, h.1, h.2]
  case isFalse h => simp; tauto

/-- What CTRL.COUNTDOWN does where it answers a next state. -/
theorem exec_countdown_eq_next {s t : State} : exec .ctrlCountdown s = .next t ↔
    s.outcome = .frame ∧ s.calRemaining ≠ 0 ∧ t = s.setRegs s.nextUnusedId s.runLen (s.calRemaining - 1) := by
  simp only [exec, execCtrlCountdown]
  split
  case isTrue h => exact ⟨fun e => ⟨h.1, h.2, (Host.Outcome.next.inj e).symm⟩, fun e => congrArg _ e.2.2.symm⟩
  case isFalse h => exact ⟨fun e => (nomatch e), fun e => absurd ⟨e.1, e.2.1⟩ h⟩

/-- What CTRL.EVAL.QUALIFY does where it answers a next state. -/
theorem exec_qualify_eq_next {s t : State} : exec .ctrlEvalQualify s = .next t ↔
    s.outcome = .frame ∧ s.calRemaining = 0 ∧ triggerPredicate s = .ok true ∧
    t = if s.runReachesHyst then s else s.setRegs s.nextUnusedId (s.runLen + 1) s.calRemaining := by
  simp only [exec, execCtrlEvalQualify, whenEvaluated_eq_next, Host.Outcome.next.injEq]
  exact ⟨fun e => ⟨e.1, e.2.1, e.2.2.1, e.2.2.2.symm⟩, fun e => ⟨e.1, e.2.1, e.2.2.1, e.2.2.2.symm⟩⟩

/-- What CTRL.EVAL.FAIL does where it answers a next state. -/
theorem exec_fail_eq_next {s t : State} : exec .ctrlEvalFail s = .next t ↔
    s.outcome = .frame ∧ s.calRemaining = 0 ∧ triggerPredicate s = .ok false ∧
    t = s.setRegs s.nextUnusedId 0 s.calRemaining := by
  simp only [exec, execCtrlEvalFail, whenEvaluated_eq_next, Host.Outcome.next.injEq]
  exact ⟨fun e => ⟨e.1, e.2.1, e.2.2.1, e.2.2.2.symm⟩, fun e => ⟨e.1, e.2.1, e.2.2.1, e.2.2.2.symm⟩⟩

/-- What CTRL.TRIGGER does where it answers a next state. -/
theorem exec_trigger_eq_next {s t : State} : exec .ctrlTrigger s = .next t ↔
    s.outcome = .frame ∧ s.calRemaining = 0 ∧ triggerPredicate s = .ok true ∧ s.runReachesHyst = true ∧
    t = (s.issueWrite s.cfg.calReg s.nextUnusedId).setRegs (s.nextUnusedId + 1) 0 (BitVec.ofNat 8 countdownN) := by
  simp only [exec, execCtrlTrigger, whenEvaluated_eq_next]
  cases s.runReachesHyst
  · exact ⟨fun e => (nomatch e.2.2.2), fun e => (nomatch e.2.2.2.1)⟩
  · exact ⟨fun e => ⟨e.1, e.2.1, e.2.2.1, rfl, (Host.Outcome.next.inj e.2.2.2).symm⟩,
      fun e => ⟨e.1, e.2.1, e.2.2.1, congrArg _ e.2.2.2.2.symm⟩⟩

/-- A countdown cycle is CTRL.COUNTDOWN and nothing else (R141). -/
theorem ctrlStep_countdown {s : State} (ho : s.outcome = .frame) (hc : 0 < s.calRemaining.toNat) :
    ctrlStep s = exec .ctrlCountdown s := by
  simp only [ctrlStep, ctrlSignals, hc, if_true, ho, decode, selectCtrl]
  simp only [decide_true, Bool.not_true, Bool.false_eq_true, if_false]
  cases exec .ctrlCountdown s <;> simp

/-- A frame that fails the predicate is CTRL.EVAL.FAIL (R141). -/
theorem ctrlStep_fail {s : State} (ho : s.outcome = .frame) (hc : s.calRemaining = 0)
    (hq : triggerPredicate s = .ok false) : ctrlStep s = exec .ctrlEvalFail s := by
  simp only [ctrlStep, ctrlSignals, hc, ho, hq, decode, selectCtrl]
  simp
  cases exec .ctrlEvalFail s <;> simp

/-- A qualifying frame short of the run is CTRL.EVAL.QUALIFY alone (R141, R145). -/
theorem ctrlStep_qualify {s : State} (ho : s.outcome = .frame) (hc : s.calRemaining = 0)
    (hq : triggerPredicate s = .ok true) (hr : s.runLen.toNat + 1 < hystN) : ctrlStep s = exec .ctrlEvalQualify s := by
  have hr' : ¬ hystN ≤ s.runLen.toNat + 1 := by omega
  simp only [ctrlStep, ctrlSignals, hc, ho, hq, decode, selectCtrl, afterQualify, hr']
  simp
  cases exec .ctrlEvalQualify s <;> simp

/-- A qualifying frame that completes the run is CTRL.EVAL.QUALIFY and then CTRL.TRIGGER (R141, R145). -/
theorem ctrlStep_trigger {s : State} (ho : s.outcome = .frame) (hc : s.calRemaining = 0)
    (hq : triggerPredicate s = .ok true) (hr : hystN ≤ s.runLen.toNat + 1) :
    ctrlStep s = andThen (exec .ctrlEvalQualify s) (exec .ctrlTrigger) := by
  simp only [ctrlStep, ctrlSignals, hc, ho, hq, decode, selectCtrl, afterQualify, hr]
  simp

end Sys2Proof.Machine
end

