-- ==== Sys2Proof/Laws/PerInstr.lean ====
section
/-! SUPPORT. Family FitsItsRow: what is presented for a well-formed operation is in the operation's format and carries the
mask and match of its row of opcode_table.json (30_encoding.md R80, R90 to R93), one lemma for each constructor. -/

namespace Sys2Proof.Laws.FitsItsRow

/-- A full read of 40 bytes whose byte 4 gives the row's match under its mask (R89, R91). -/
def isPacketOf (mask value : Byte) (x : Presented) : Prop :=
  ∃ bs : List Byte, x = .cycle false true 40 bs ∧ bs.length = 40 ∧ byteAt bs 4 &&& mask = value

/-- The row of an operation, its mask and match written out from opcode_table.json. -/
def fits (i : Instr) (x : Presented) : Prop :=
  match i with
  | .rst => ∃ rdOk n bs, x = .cycle true rdOk n bs
  | .cycShort _ _ => ∃ rdOk n bs, x = .cycle false rdOk n bs ∧ (rdOk = false ∨ n ≠ 40)
  | .decN0 _ => isPacketOf 0xFF 0x00 x
  | .decN1 _ => isPacketOf 0xFF 0x01 x
  | .decN2 _ => isPacketOf 0xFF 0x02 x
  | .decN3 _ => isPacketOf 0xFF 0x03 x
  | .decN4 _ => isPacketOf 0xFF 0x04 x
  | .decErr5 _ => isPacketOf 0xFF 0x05 x
  | .decErr6_7 _ => isPacketOf 0xFE 0x06 x
  | .decErr8_15 _ => isPacketOf 0xF8 0x08 x
  | .decErr16_31 _ => isPacketOf 0xF0 0x10 x
  | .decErr32_63 _ => isPacketOf 0xE0 0x20 x
  | .decErr64_127 _ => isPacketOf 0xC0 0x40 x
  | .decErrNeg _ => isPacketOf 0x80 0x80 x
  | .crcVerify _ => ∃ bs : List Byte, x = .verify bs ∧ bs.length = 40
  | .ctrlCountdown => ∃ cal q run, x = .ctrl true cal q run false ∧ cal ≠ 0
  | .ctrlEvalQualify => ∃ run, x = .ctrl true 0 true run false
  | .ctrlEvalFail => ∃ run, x = .ctrl true 0 false run false
  | .ctrlTrigger => ∃ run : Byte, x = .ctrl true 0 true run true ∧ 5 ≤ run.toNat + 1
  | .cmdCalBegin reg val => x = .cmd2 [reg, val]

def Statement (i : Instr) : Prop := WellFormed i = true → fits i (encode i)

theorem rst : Statement .rst := fun _ => ⟨_, _, _, rfl⟩

theorem cycShort (rdOk : Bool) (n : Nat) : Statement (.cycShort rdOk n) := by
  intro h
  refine ⟨rdOk, n, [], rfl, ?_⟩
  simp only [WellFormed, pktLen, Bool.not_eq_true', Bool.and_eq_false_iff, beq_eq_false_iff_ne] at h
  exact h

/-- The byte at offset 4 of a packet's bytes is its face count, whose pattern is the row's when its value is. -/
theorem isPacketOf_fullRead {mask value : Byte} {lo hi : Int} {p : Packet}
    (hv : (p.numFaces &&& mask == value) = decide (lo ≤ p.numFaces.toInt ∧ p.numFaces.toInt ≤ hi))
    (h : p.facesIn lo hi = true) : isPacketOf mask value (fullRead p) :=
  ⟨encodePacket p, rfl, rfl, eq_of_beq (hv.trans h)⟩

section Packets
variable (p : Packet)

theorem decN0 : Statement (.decN0 p) := isPacketOf_fullRead (patterns_select_values _).1
theorem decN1 : Statement (.decN1 p) := isPacketOf_fullRead (patterns_select_values _).2.1
theorem decN2 : Statement (.decN2 p) := isPacketOf_fullRead (patterns_select_values _).2.2.1
theorem decN3 : Statement (.decN3 p) := isPacketOf_fullRead (patterns_select_values _).2.2.2.1
theorem decN4 : Statement (.decN4 p) := isPacketOf_fullRead (patterns_select_values _).2.2.2.2.1
theorem decErr5 : Statement (.decErr5 p) := isPacketOf_fullRead (patterns_select_values _).2.2.2.2.2.1
theorem decErr6_7 : Statement (.decErr6_7 p) := isPacketOf_fullRead (patterns_select_values _).2.2.2.2.2.2.1
theorem decErr8_15 : Statement (.decErr8_15 p) := isPacketOf_fullRead (patterns_select_values _).2.2.2.2.2.2.2.1
theorem decErr16_31 : Statement (.decErr16_31 p) := isPacketOf_fullRead (patterns_select_values _).2.2.2.2.2.2.2.2.1
theorem decErr32_63 : Statement (.decErr32_63 p) := isPacketOf_fullRead (patterns_select_values _).2.2.2.2.2.2.2.2.2.1
theorem decErr64_127 : Statement (.decErr64_127 p) := isPacketOf_fullRead (patterns_select_values _).2.2.2.2.2.2.2.2.2.2.1
theorem decErrNeg : Statement (.decErrNeg p) := isPacketOf_fullRead (patterns_select_values _).2.2.2.2.2.2.2.2.2.2.2
theorem crcVerify : Statement (.crcVerify p) := fun _ => ⟨_, rfl, rfl⟩

end Packets

theorem ctrlCountdown : Statement .ctrlCountdown := fun _ => ⟨_, _, _, rfl, by decide⟩
theorem ctrlEvalQualify : Statement .ctrlEvalQualify := fun _ => ⟨_, rfl⟩
theorem ctrlEvalFail : Statement .ctrlEvalFail := fun _ => ⟨_, rfl⟩
theorem ctrlTrigger : Statement .ctrlTrigger := fun _ => ⟨_, rfl, by decide⟩
theorem cmdCalBegin (reg val : Byte) : Statement (.cmdCalBegin reg val) := fun _ => rfl

end Sys2Proof.Laws.FitsItsRow
end

