-- ==== Sys2Proof/Laws/Step.lean ====
section
/-! SUPPORT. What one step can do, said once: the seven kinds of cycle (reset, skip by a short read, skip by a face-count
error, countdown, failing frame, qualifying frame, trigger), each with its exact next state, and that these are all. -/

namespace Sys2Proof.Machine

/-- The state in which the controller runs: the cycle begun, `crc_ok` driven, the frame of the packet driven. -/
def shown (s : State) (p : Packet) : State :=
  ((begun s).driveCrc (crcMatches s.cfg.crc16 p)).report .frame (.drives (frameOf p.numFaces.toNat p))

/-- What the frame, the register and the configuration say of the trigger predicate (R144). -/
def triggersOn (s : State) (p : Packet) : Bool := qualifies s.cfg p && decide (s.nextUnusedId.toNat < s.cfg.maxIds.toNat)

section Begun
variable (s : State)
@[simp] theorem begun_cfg : (begun s).cfg = s.cfg := rfl
@[simp] theorem begun_nextUnusedId : (begun s).nextUnusedId = s.nextUnusedId := rfl
@[simp] theorem begun_runLen : (begun s).runLen = s.runLen := rfl
@[simp] theorem begun_calRemaining : (begun s).calRemaining = s.calRemaining := rfl
@[simp] theorem begun_frame : (begun s).frame = .poison := rfl
@[simp] theorem begun_crcOk : (begun s).crcOk = .poison := rfl
@[simp] theorem begun_cmdValid : (begun s).cmdValid = false := rfl
@[simp] theorem begun_cmdDev : (begun s).cmdDev = .poison := rfl
@[simp] theorem begun_cmdReg : (begun s).cmdReg = .poison := rfl
@[simp] theorem begun_cmdVal : (begun s).cmdVal = .poison := rfl
@[simp] theorem begun_calls : (begun s).calls = if s.nextInput.rst then [] else [.read s.cfg.devAddr pktLen] := rfl
@[simp] theorem begun_inputs : (begun s).inputs = s.inputs.tail := rfl
@[simp] theorem begun_cycleNo : (begun s).cycleNo = s.cycleNo + 1 := rfl
end Begun

section Shown
variable (s : State) (p : Packet)
@[simp] theorem shown_cfg : (shown s p).cfg = s.cfg := rfl
@[simp] theorem shown_nextUnusedId : (shown s p).nextUnusedId = s.nextUnusedId := rfl
@[simp] theorem shown_runLen : (shown s p).runLen = s.runLen := rfl
@[simp] theorem shown_calRemaining : (shown s p).calRemaining = s.calRemaining := rfl
@[simp] theorem shown_outcome : (shown s p).outcome = .frame := rfl
@[simp] theorem shown_frame : (shown s p).frame = .drives (frameOf p.numFaces.toNat p) := rfl
@[simp] theorem shown_crcOk : (shown s p).crcOk = .drives (crcMatches s.cfg.crc16 p) := rfl
@[simp] theorem shown_cmdValid : (shown s p).cmdValid = false := rfl
@[simp] theorem shown_cmdDev : (shown s p).cmdDev = .poison := rfl
@[simp] theorem shown_cmdReg : (shown s p).cmdReg = .poison := rfl
@[simp] theorem shown_cmdVal : (shown s p).cmdVal = .poison := rfl
@[simp] theorem shown_calls : (shown s p).calls = if s.nextInput.rst then [] else [.read s.cfg.devAddr pktLen] := rfl
@[simp] theorem shown_inputs : (shown s p).inputs = s.inputs.tail := rfl
@[simp] theorem shown_cycleNo : (shown s p).cycleNo = s.cycleNo + 1 := rfl
end Shown

/-- A qualifying state makes the predicate true (R144). -/
theorem triggerPredicate_of_qualifying {s : State} (h : s.Qualifying) : triggerPredicate s = .ok true := by
  obtain ⟨f, r, hf, hn, hr, hconf, hid, hface, hcap⟩ := h
  rw [triggerPredicate_of_one hf hn hr]
  have hface' : facing r.isFacing = true := bne_iff_ne.2 hface
  simp [hconf, hid, hface', hcap]

/-- A failing state makes it false (R144). -/
theorem triggerPredicate_of_failing {s : State} (h : s.Failing) : triggerPredicate s = .ok false := by
  obtain ⟨f, hf, h⟩ := h
  by_cases hn : f.numFaces = 1
  case neg => exact triggerPredicate_of_faces_ne hf hn
  rcases h with h | ⟨r, hr, h⟩
  · exact absurd hn h
  rw [triggerPredicate_of_one hf hn hr]
  simp only [Except.ok.injEq, Bool.and_eq_false_iff, decide_eq_false_iff_not, facing, beq_eq_false_iff_ne,
    bne_eq_false_iff_eq]
  rcases h with h | h | h | h
  · exact .inl (.inl (.inl (by omega)))
  · exact .inl (.inl (.inr h))
  · exact .inl (.inr h)
  · exact .inr (by omega)

/-- On a frame shown, the predicate is the packet's terms and the capacity term (R144). -/
theorem triggerPredicate_shown {s : State} {p : Packet} (h : p.facesIn 0 4 = true) :
    triggerPredicate (shown s p) = .ok (triggersOn s p) := by
  have hb := p.bounds_of_facesIn h
  have hn : BitVec.ofNat 8 p.numFaces.toNat = p.numFaces := by simp
  by_cases h1 : p.numFaces = 1
  · rw [triggerPredicate_of_one (f := frameOf p.numFaces.toNat p) (r := decodeFace p.slot0) rfl (by simp [frameOf, h1])
      (by simp [frameOf, slotSig, h1])]
    simp [triggersOn, qualifies, h1, decodeFace, shown]
  · rw [triggerPredicate_of_faces_ne (f := frameOf p.numFaces.toNat p) rfl (by simpa [frameOf] using h1)]
    have h1' : (p.numFaces == 1) = false := beq_eq_false_iff_ne.mpr h1
    simp only [triggersOn, qualifies, h1', Bool.false_and]

theorem step_illegal_config {s : State} (h : s.cfg.legal = false) : step s = .refused .illegalConfig := by
  simp [step, cycle, h]

theorem step_illegal_start {s : State} (hc : s.cfg.legal = true) (h : s.legalStart = false) :
    step s = .refused .illegalStart := by
  simp [step, cycle, hc, h]

/-- The machine's own refusals do not arise from a legal state. -/
theorem step_of_legal {s : State} (hc : s.cfg.legal = true) (hl : s.legalStart = true) : step s =
    match fetchBytes s.nextInput (begun s) with
    | .error f => .fault f
    | .ok bytes =>
      match decode (.cycle s.nextInput.rst s.nextInput.rdOk s.nextInput.rdCount bytes) with
      | .error r => .refused (.undecodable r)
      | .ok i => andThen (runCycle i (begun s)) (fun t => .next t.discardBuf) := by
  exact (if_neg (by simp [hc])).trans (if_neg (by simp [hl]))

/-- A reset cycle. -/
theorem step_rst {s : State} (hc : s.cfg.legal = true) (hl : s.legalStart = true) (h : s.nextInput.rst = true) :
    step s = .next (((((begun s).raise .reset).undriveCrc.noCommand).setRegs 1 0 0).discardBuf) := by
  rw [step_of_legal hc hl, fetchBytes_not_full (by simp [CycleInput.full, h])]
  simp only [decode, h, if_true]
  rfl

/-- A short or failed read. -/
theorem step_short {s : State} (hc : s.cfg.legal = true) (hl : s.legalStart = true) (h : s.nextInput.rst = false)
    (hs : s.nextInput.full = false) :
    step s = .next (((begun s).raise .busUnavailable).undriveCrc.noCommand.discardBuf) := by
  rw [step_of_legal hc hl, fetchBytes_not_full hs]
  have hs' : (!s.nextInput.rdOk || s.nextInput.rdCount != pktLen) = true := by
    cases hk : s.nextInput.rdOk <;> simp_all [CycleInput.full]
  simp only [decode, h, hs', if_true, Bool.false_eq_true, if_false]
  rfl

/-- A full read is decoded by its packet. -/
theorem step_full {s : State} {p : Packet} (hc : s.cfg.legal = true) (hl : s.legalStart = true)
    (hf : s.nextInput.full = true) (hw : pktLen ≤ s.nextInput.rdData.length)
    (hp : parsePacket (s.nextInput.rdData.take pktLen) = .ok p) : step s =
      match classify p with
      | .error r => .refused (.undecodable r)
      | .ok i => andThen (runCycle i (begun s)) (fun t => .next t.discardBuf) := by
  rw [step_of_legal hc hl, begun, fetchBytes_full hf hw]
  simp only [CycleInput.full, Bool.and_eq_true, Bool.not_eq_true', beq_iff_eq] at hf
  obtain ⟨⟨h1, h2⟩, h3⟩ := hf
  simp only [decode, h1, h2, h3, hp]
  rfl

/-- A face-count error. -/
theorem step_error {s : State} {p : Packet} (hc : s.cfg.legal = true) (hl : s.legalStart = true)
    (hf : s.nextInput.full = true) (hw : pktLen ≤ s.nextInput.rdData.length)
    (hp : parsePacket (s.nextInput.rdData.take pktLen) = .ok p) (he : p.facesIn 0 4 = false) :
    step s = .next ((((begun s).driveCrc (crcMatches s.cfg.crc16 p)).raise .faceCountOutOfRange).discardBuf) := by
  rw [step_full hc hl hf hw hp, classify_eq]
  have hnot : ∀ k : Int, 0 ≤ k → k ≤ 4 → p.facesIn k k = false := by
    intro k h0 h4
    simp only [Packet.facesIn_def, decide_eq_false_iff_not] at *
    omega
  rw [hnot 0 (by omega) (by omega), hnot 1 (by omega) (by omega), hnot 2 (by omega) (by omega), hnot 3 (by omega) (by omega),
    hnot 4 (by omega) (by omega)]
  simp only [Bool.false_eq_true, if_false]
  repeat' split
  all_goals rfl

/-- A FRAME cycle is the controller step on the state that shows the frame. -/
theorem step_frame {s : State} {p : Packet} (hc : s.cfg.legal = true) (hl : s.legalStart = true)
    (hf : s.nextInput.full = true) (hw : pktLen ≤ s.nextInput.rdData.length)
    (hp : parsePacket (s.nextInput.rdData.take pktLen) = .ok p) (he : p.facesIn 0 4 = true) :
    step s = andThen (ctrlStep (shown s p)) (fun t => .next t.discardBuf) := by
  rw [step_full hc hl hf hw hp, classify_eq]
  have hb := p.bounds_of_facesIn he
  have hi := BitVec.toInt_eq_toNat_cond p.numFaces
  have hlt := p.numFaces.isLt
  have run : ∀ (k : Nat) (i : Instr), p.facesIn k k = true → packetOf i = some p →
      (∀ u, exec i u = .next (u.report .frame (.drives (frameOf k p)))) →
      andThen (runCycle i (begun s)) (fun t => .next t.discardBuf)
        = andThen (ctrlStep (shown s p)) (fun t => .next t.discardBuf) := by
    intro k i hk hpk hx
    have hk' := p.bounds_of_facesIn hk
    have hn : p.numFaces.toNat = k := by split at hi <;> omega
    have hv : exec (.crcVerify p) (begun s) = .next ((begun s).driveCrc (crcMatches s.cfg.crc16 p)) := rfl
    simp only [runCycle, verifyStep, hpk, hv, andThen_next, hx, evaluate, State.report_outcome, if_true, shown, hn]
  have key : ∀ k : Int, p.facesIn k k = true ↔ p.numFaces.toInt = k := by
    intro k; simp only [Packet.facesIn_def, decide_eq_true_eq]; omega
  have hcases : p.numFaces.toInt = 0 ∨ p.numFaces.toInt = 1 ∨ p.numFaces.toInt = 2 ∨ p.numFaces.toInt = 3 ∨
      p.numFaces.toInt = 4 := by omega
  have hne : ∀ k j : Int, p.numFaces.toInt = k → k ≠ j → p.facesIn j j = false := by
    intro k j hk hj
    rw [← Bool.not_eq_true, key]; omega
  rcases hcases with h | h | h | h | h
  · simp only [(key 0).2 h, if_true]
    exact run 0 _ ((key 0).2 h) rfl (fun _ => rfl)
  · simp only [(key 1).2 h, hne 1 0 h (by omega), if_true, Bool.false_eq_true, if_false]
    exact run 1 _ ((key 1).2 h) rfl (fun _ => rfl)
  · simp only [(key 2).2 h, hne 2 0 h (by omega), hne 2 1 h (by omega), if_true, Bool.false_eq_true, if_false]
    exact run 2 _ ((key 2).2 h) rfl (fun _ => rfl)
  · simp only [(key 3).2 h, hne 3 0 h (by omega), hne 3 1 h (by omega), hne 3 2 h (by omega), if_true, Bool.false_eq_true,
      if_false]
    exact run 3 _ ((key 3).2 h) rfl (fun _ => rfl)
  · simp only [(key 4).2 h, hne 4 0 h (by omega), hne 4 1 h (by omega), hne 4 2 h (by omega), hne 4 3 h (by omega), if_true,
      Bool.false_eq_true, if_false]
    exact run 4 _ ((key 4).2 h) rfl (fun _ => rfl)

section FrameCycles
variable {s : State} {p : Packet} (hc : s.cfg.legal = true) (hl : s.legalStart = true)
  (hf : s.nextInput.full = true) (hw : pktLen ≤ s.nextInput.rdData.length)
  (hp : parsePacket (s.nextInput.rdData.take pktLen) = .ok p) (he : p.facesIn 0 4 = true)
include hc hl hf hw hp he

/-- A FRAME cycle of a countdown. -/
theorem step_countdown (h : s.calRemaining ≠ 0) : step s =
    .next ((shown s p).setRegs s.nextUnusedId s.runLen (s.calRemaining - 1)).discardBuf := by
  have h' : 0 < (shown s p).calRemaining.toNat := by
    have : s.calRemaining.toNat ≠ 0 := fun h0 => h (BitVec.eq_of_toNat_eq (by simpa using h0))
    show 0 < s.calRemaining.toNat
    omega
  rw [step_frame hc hl hf hw hp he, ctrlStep_countdown (s := shown s p) rfl h']
  have h2 : exec .ctrlCountdown (shown s p) = .next ((shown s p).setRegs s.nextUnusedId s.runLen (s.calRemaining - 1)) :=
    exec_countdown_eq_next.2 ⟨rfl, h, rfl⟩
  rw [h2]
  rfl

/-- A FRAME cycle whose frame fails the predicate. -/
theorem step_fail (h : s.calRemaining = 0) (hq : triggersOn s p = false) : step s =
    .next ((shown s p).setRegs s.nextUnusedId 0 0).discardBuf := by
  have hq' : triggerPredicate (shown s p) = .ok false := by rw [triggerPredicate_shown he, hq]
  rw [step_frame hc hl hf hw hp he, ctrlStep_fail (s := shown s p) rfl h hq']
  have : exec .ctrlEvalFail (shown s p) = .next ((shown s p).setRegs s.nextUnusedId 0 s.calRemaining) :=
    exec_fail_eq_next.2 ⟨rfl, h, hq', rfl⟩
  rw [this, h]
  rfl

/-- A FRAME cycle whose frame qualifies, short of the run. -/
theorem step_qualify (h : s.calRemaining = 0) (hq : triggersOn s p = true) (hr : s.runLen.toNat + 1 < hystN) : step s =
    .next ((shown s p).setRegs s.nextUnusedId (s.runLen + 1) 0).discardBuf := by
  have hq' : triggerPredicate (shown s p) = .ok true := by rw [triggerPredicate_shown he, hq]
  rw [step_frame hc hl hf hw hp he, ctrlStep_qualify (s := shown s p) rfl h hq' hr]
  have hn : (shown s p).runReachesHyst = false := by
    simp only [State.runReachesHyst, decide_eq_false_iff_not, not_le]; exact hr
  have : exec .ctrlEvalQualify (shown s p) = .next ((shown s p).setRegs s.nextUnusedId (s.runLen + 1) s.calRemaining) :=
    exec_qualify_eq_next.2 ⟨rfl, h, hq', by rw [hn]; rfl⟩
  rw [this, h]
  rfl

/-- A FRAME cycle whose frame completes the run: the trigger. -/
theorem step_trigger (h : s.calRemaining = 0) (hq : triggersOn s p = true) (hr : hystN ≤ s.runLen.toNat + 1) : step s =
    .next (((shown s p).issueWrite s.cfg.calReg s.nextUnusedId).setRegs (s.nextUnusedId + 1) 0
      (BitVec.ofNat 8 countdownN)).discardBuf := by
  have hq' : triggerPredicate (shown s p) = .ok true := by rw [triggerPredicate_shown he, hq]
  rw [step_frame hc hl hf hw hp he, ctrlStep_trigger (s := shown s p) rfl h hq' hr]
  have hn : (shown s p).runReachesHyst = true := decide_eq_true hr
  have h1 : exec .ctrlEvalQualify (shown s p) = .next (shown s p) :=
    exec_qualify_eq_next.2 ⟨rfl, h, hq', by rw [hn]; rfl⟩
  have h2 : exec .ctrlTrigger (shown s p) = .next (((shown s p).issueWrite s.cfg.calReg s.nextUnusedId).setRegs
      (s.nextUnusedId + 1) 0 (BitVec.ofNat 8 countdownN)) :=
    exec_trigger_eq_next.2 ⟨rfl, h, hq', hn, rfl⟩
  rw [h1, andThen_next, h2]
  rfl

/-- Whatever the controller does, a FRAME cycle shows the packet's frame and its checksum result. -/
theorem step_frame_outputs : ∃ t, step s = .next t ∧ t.outcome = .frame ∧
    t.frame = .drives (frameOf p.numFaces.toNat p) ∧ t.crcOk = .drives (crcMatches s.cfg.crc16 p) := by
  by_cases h : s.calRemaining = 0
  case neg => exact ⟨_, step_countdown hc hl hf hw hp he h, rfl, rfl, rfl⟩
  cases hq : triggersOn s p
  case false => exact ⟨_, step_fail hc hl hf hw hp he h hq, rfl, rfl, rfl⟩
  by_cases hr : s.runLen.toNat + 1 < hystN
  case pos => exact ⟨_, step_qualify hc hl hf hw hp he h hq hr, rfl, rfl, rfl⟩
  exact ⟨_, step_trigger hc hl hf hw hp he h hq (by omega), rfl, rfl, rfl⟩

end FrameCycles

/-- A full read that lacks one of its bytes reads POISON. -/
theorem step_missing {s : State} (hc : s.cfg.legal = true) (hl : s.legalStart = true) (hf : s.nextInput.full = true)
    (hw : s.nextInput.rdData.length < pktLen) : step s = .fault (.poisonByte s.nextInput.rdData.length) := by
  rw [step_of_legal hc hl]
  have hf' := hf
  simp only [CycleInput.full, Bool.and_eq_true, Bool.not_eq_true', beq_iff_eq] at hf
  obtain ⟨⟨h1, h2⟩, h3⟩ := hf
  have hd : s.nextInput.delivered = s.nextInput.rdData := by
    simp only [CycleInput.delivered, h3]; exact List.take_of_length_le (by omega)
  have hb : (begun s).buf = Memory.fill s.nextInput.rdData := by
    rw [begun, State.present_buf, h1, hd]; rfl
  simp only [fetchBytes, hf', if_true, hb]
  rw [readRange_fill_short _ _ _ (by omega) (by omega) (by omega)]

/-- The kinds of cycle from a legal state, with the whole next state of each. -/
inductive StepCase (s : State) : State → Prop where
  | rst (h : s.nextInput.rst = true) :
      StepCase s (((((begun s).raise .reset).undriveCrc.noCommand).setRegs 1 0 0).discardBuf)
  | short (h : s.nextInput.rst = false) (hs : s.nextInput.full = false) :
      StepCase s (((begun s).raise .busUnavailable).undriveCrc.noCommand.discardBuf)
  | error (p : Packet) (hf : s.nextInput.full = true) (hp : parsePacket (s.nextInput.rdData.take pktLen) = .ok p)
      (he : p.facesIn 0 4 = false) :
      StepCase s ((((begun s).driveCrc (crcMatches s.cfg.crc16 p)).raise .faceCountOutOfRange).discardBuf)
  | countdown (p : Packet) (hf : s.nextInput.full = true) (hp : parsePacket (s.nextInput.rdData.take pktLen) = .ok p)
      (he : p.facesIn 0 4 = true) (h : s.calRemaining ≠ 0) :
      StepCase s ((shown s p).setRegs s.nextUnusedId s.runLen (s.calRemaining - 1)).discardBuf
  | fail (p : Packet) (hf : s.nextInput.full = true) (hp : parsePacket (s.nextInput.rdData.take pktLen) = .ok p)
      (he : p.facesIn 0 4 = true) (h : s.calRemaining = 0) (hq : triggersOn s p = false) :
      StepCase s ((shown s p).setRegs s.nextUnusedId 0 0).discardBuf
  | qualify (p : Packet) (hf : s.nextInput.full = true) (hp : parsePacket (s.nextInput.rdData.take pktLen) = .ok p)
      (he : p.facesIn 0 4 = true) (h : s.calRemaining = 0) (hq : triggersOn s p = true) (hr : s.runLen.toNat + 1 < hystN) :
      StepCase s ((shown s p).setRegs s.nextUnusedId (s.runLen + 1) 0).discardBuf
  | trigger (p : Packet) (hf : s.nextInput.full = true) (hp : parsePacket (s.nextInput.rdData.take pktLen) = .ok p)
      (he : p.facesIn 0 4 = true) (h : s.calRemaining = 0) (hq : triggersOn s p = true) (hr : hystN ≤ s.runLen.toNat + 1) :
      StepCase s (((shown s p).issueWrite s.cfg.calReg s.nextUnusedId).setRegs (s.nextUnusedId + 1) 0
        (BitVec.ofNat 8 countdownN)).discardBuf

/-- From a legal state, whatever is presented and delivered, the step answers one of the kinds of cycle. -/
theorem step_total {s : State} (hc : s.cfg.legal = true) (hl : s.legalStart = true) (hw : s.nextInput.whole = true) :
    ∃ t, step s = .next t ∧ StepCase s t := by
  cases h : s.nextInput.rst
  case true => exact ⟨_, step_rst hc hl h, .rst h⟩
  cases hf : s.nextInput.full
  case false => exact ⟨_, step_short hc hl h hf, .short h hf⟩
  have hw' : pktLen ≤ s.nextInput.rdData.length := by simpa [CycleInput.whole, hf] using hw
  obtain ⟨p, hp, -⟩ := parsePacket_of_length (bs := s.nextInput.rdData.take pktLen) (by simp; omega)
  cases he : p.facesIn 0 4
  case false => exact ⟨_, step_error hc hl hf hw' hp he, .error p hf hp he⟩
  by_cases hcal : s.calRemaining = 0
  case neg => exact ⟨_, step_countdown hc hl hf hw' hp he hcal, .countdown p hf hp he hcal⟩
  cases hq : triggersOn s p
  case false => exact ⟨_, step_fail hc hl hf hw' hp he hcal hq, .fail p hf hp he hcal hq⟩
  by_cases hr : s.runLen.toNat + 1 < hystN
  case pos => exact ⟨_, step_qualify hc hl hf hw' hp he hcal hq hr, .qualify p hf hp he hcal hq hr⟩
  exact ⟨_, step_trigger hc hl hf hw' hp he hcal hq (by omega), .trigger p hf hp he hcal hq (by omega)⟩

/-- A step from a legal state that answers a next state is one of the kinds of cycle. -/
theorem step_cases {s t : State} (hc : s.cfg.legal = true) (hl : s.legalStart = true) (h : step s = .next t) :
    StepCase s t := by
  cases hw : s.nextInput.whole
  case true =>
    obtain ⟨u, hu, hcase⟩ := step_total hc hl hw
    rw [h] at hu
    cases hu
    exact hcase
  case false =>
    simp only [CycleInput.whole, Bool.or_eq_false_iff, Bool.not_eq_false', decide_eq_false_iff_not, not_le] at hw
    rw [step_missing hc hl hw.1 hw.2] at h
    cases h

/-- The next state of a whole input is the one its kind of cycle gives. -/
theorem whole_of_step {s t : State} (hc : s.cfg.legal = true) (hl : s.legalStart = true) (h : step s = .next t) :
    s.nextInput.whole = true := by
  by_contra hw
  simp only [CycleInput.whole, Bool.not_eq_true, Bool.or_eq_false_iff, Bool.not_eq_false', decide_eq_false_iff_not,
    not_le] at hw
  rw [step_missing hc hl hw.1 hw.2] at h
  cases h

/-- A step that answers a next state starts in a legal state. -/
theorem legal_of_step {s t : State} (h : step s = .next t) : s.cfg.legal = true ∧ s.legalStart = true := by
  simp only [step, cycle] at h
  split at h
  · cases h
  split at h
  · cases h
  simp_all

/-! What a cycle presents. -/

theorem CycleInput.rst_of_full {inp : CycleInput} (h : inp.full = true) : inp.rst = false := by
  simp only [CycleInput.full, Bool.and_eq_true, Bool.not_eq_true'] at h
  exact h.1.1

theorem CycleInput.not_full_of_rst {inp : CycleInput} (h : inp.rst = true) : inp.full = false := by
  simp [CycleInput.full, h]

theorem CycleInput.framePacket_of_full {inp : CycleInput} {p : Packet} (hf : inp.full = true)
    (hp : parsePacket (inp.rdData.take pktLen) = .ok p) :
    inp.framePacket = if p.facesIn 0 4 then some p else none := by
  simp [CycleInput.framePacket, hf, hp]

theorem CycleInput.framePacket_of_not_full {inp : CycleInput} (hf : inp.full = false) : inp.framePacket = none := by
  simp [CycleInput.framePacket, hf]

theorem qualifyingInput_of_frame {c : Config} {inp : CycleInput} {p : Packet} (hf : inp.full = true)
    (hp : parsePacket (inp.rdData.take pktLen) = .ok p) (he : p.facesIn 0 4 = true) :
    qualifyingInput c inp = qualifies c p := by
  simp [qualifyingInput, CycleInput.framePacket_of_full hf hp, he]

/-- The free input of a cycle for which nothing is presented delivers what it owes. -/
theorem freeInput_whole (n : Nat) : (freeInput n).whole = true := by
  simp [CycleInput.whole, freeInput]

end Sys2Proof.Machine
end

