-- ==== Sys2Proof/Laws/Runs.lean ====
section
/-! SUPPORT. What a step does to what the next step reads (the registers, the configuration, the presented cycles), said once
for the inductions over runs; and the frame output's shape. -/

namespace Sys2Proof.Machine

/-- A step leaves the configuration and a legal start state for the next (R36, R44). -/
theorem step_keeps_legal {s t : State} (h : step s = .next t) : t.cfg = s.cfg ∧ t.legalStart = true := by
  obtain ⟨hc, hl⟩ := legal_of_step h
  have L := legalStart_iff.1 hl
  have C := Config.legal_iff.1 hc
  have hm := s.cfg.maxIds.isLt
  cases step_cases hc hl h with
  | rst hh => exact ⟨rfl, legalStart_iff.2 (by simp; omega)⟩
  | short hh hf => exact ⟨rfl, hl⟩
  | error p hf hp he => exact ⟨rfl, hl⟩
  | countdown p hf hp he hh =>
    have h0 : s.calRemaining.toNat ≠ 0 := fun e => hh (BitVec.eq_of_toNat_eq (by simpa using e))
    have e : (s.calRemaining - 1).toNat = s.calRemaining.toNat - 1 := by bv_omega
    refine ⟨rfl, legalStart_iff.2 ?_⟩
    show 1 ≤ s.nextUnusedId.toNat ∧ s.nextUnusedId.toNat ≤ s.cfg.maxIds.toNat ∧ s.runLen.toNat ≤ 4 ∧ (s.calRemaining - 1).toNat ≤ 20 ∧
      ((s.calRemaining - 1).toNat = 0 ∨ s.runLen.toNat = 0)
    omega
  | fail p hf hp he hh => exact ⟨rfl, legalStart_iff.2 (by simp; omega)⟩
  | qualify p hf hp he hh hq hr =>
    simp only [hystN] at hr
    have e : (s.runLen + 1).toNat = s.runLen.toNat + 1 := by bv_omega
    refine ⟨rfl, legalStart_iff.2 ?_⟩
    show 1 ≤ s.nextUnusedId.toNat ∧ s.nextUnusedId.toNat ≤ s.cfg.maxIds.toNat ∧ (s.runLen + 1).toNat ≤ 4 ∧ 0 ≤ 20 ∧ (0 = 0 ∨ _)
    omega
  | trigger p hf hp he hh hq hr =>
    simp only [triggersOn, Bool.and_eq_true, decide_eq_true_eq] at hq
    have e : (s.nextUnusedId + 1).toNat = s.nextUnusedId.toNat + 1 := by bv_omega
    refine ⟨rfl, legalStart_iff.2 ?_⟩
    show 1 ≤ (s.nextUnusedId + 1).toNat ∧ (s.nextUnusedId + 1).toNat ≤ s.cfg.maxIds.toNat ∧ 0 ≤ 4 ∧ 20 ≤ 20 ∧ (_ ∨ 0 = 0)
    omega

/-- A step takes the presented cycle (R170). -/
theorem step_takes_input {s t : State} (h : step s = .next t) : t.inputs = s.inputs.tail ∧ t.cycleNo = s.cycleNo + 1 := by
  obtain ⟨hc, hl⟩ := legal_of_step h
  cases step_cases hc hl h <;> exact ⟨rfl, rfl⟩

/-- What a cycle that is no reset does to the registers, as numbers, and whether it issues a command. -/
inductive RegsCase (s t : State) : Prop where
  | skipped (ho : t.outcome ≠ .frame) (hid : t.nextUnusedId = s.nextUnusedId) (hrun : t.runLen = s.runLen)
      (hcal : t.calRemaining = s.calRemaining) (hv : t.cmdValid = false) (hp : t.payload = none)
  | counted (ho : t.outcome = .frame) (hid : t.nextUnusedId = s.nextUnusedId) (hrun : t.runLen = s.runLen)
      (hcal : t.calRemaining.toNat + 1 = s.calRemaining.toNat) (hv : t.cmdValid = false) (hp : t.payload = none)
  | cleared (ho : t.outcome = .frame) (h0 : s.calRemaining = 0) (hid : t.nextUnusedId = s.nextUnusedId) (hrun : t.runLen = 0)
      (hcal : t.calRemaining = 0) (hv : t.cmdValid = false) (hp : t.payload = none)
  | extended (ho : t.outcome = .frame) (h0 : s.calRemaining = 0) (hroom : s.nextUnusedId.toNat < s.cfg.maxIds.toNat)
      (hid : t.nextUnusedId = s.nextUnusedId) (hrun : t.runLen.toNat = s.runLen.toNat + 1) (hcal : t.calRemaining = 0)
      (hv : t.cmdValid = false) (hp : t.payload = none)
  | triggered (ho : t.outcome = .frame) (h0 : s.calRemaining = 0) (h4 : s.runLen.toNat = 4)
      (hroom : s.nextUnusedId.toNat < s.cfg.maxIds.toNat) (hid : t.nextUnusedId.toNat = s.nextUnusedId.toNat + 1)
      (hrun : t.runLen = 0) (hcal : t.calRemaining.toNat = 20) (hv : t.cmdValid = true)
      (hp : t.payload = some s.nextUnusedId.toNat)

theorem step_regs {s t : State} (h : step s = .next t) (hr : t.outcome ≠ .reset) : RegsCase s t := by
  obtain ⟨hc, hl⟩ := legal_of_step h
  have L := legalStart_iff.1 hl
  have hm := s.cfg.maxIds.isLt
  cases step_cases hc hl h with
  | rst hh => exact absurd rfl hr
  | short hh hf => exact .skipped (by simp) rfl rfl rfl rfl rfl
  | error p hf hp he => exact .skipped (by simp) rfl rfl rfl rfl rfl
  | countdown p hf hp he hh =>
    have : s.calRemaining.toNat ≠ 0 := fun e => hh (BitVec.eq_of_toNat_eq (by simpa using e))
    exact .counted rfl rfl rfl (by simp; bv_omega) rfl rfl
  | fail p hf hp he hh => exact .cleared rfl hh rfl rfl rfl rfl rfl
  | qualify p hf hp he hh hq hx =>
    simp only [hystN] at hx
    simp only [triggersOn, Bool.and_eq_true, decide_eq_true_eq] at hq
    exact .extended rfl hh hq.2 rfl (by simp; omega) rfl rfl rfl
  | trigger p hf hp he hh hq hx =>
    simp only [triggersOn, Bool.and_eq_true, decide_eq_true_eq] at hq
    simp only [hystN] at hx
    exact .triggered rfl hh (by omega) hq.2 (by simp; omega) rfl rfl rfl rfl

/-- A run of one more cycle is a step and the rest of the run. -/
theorem statesAfter_succ {n : Nat} {s : State} {ts : List State} (h : statesAfter (n + 1) s = some ts) :
    ∃ t us, step s = .next t ∧ statesAfter n t = some us ∧ ts = t :: us := by
  simp only [statesAfter] at h
  split at h
  · rename_i t ht
    obtain ⟨us, h1, h2⟩ := Option.map_eq_some_iff.1 h
    exact ⟨t, us, ht, h1, h2.symm⟩
  · cases h
  · cases h

theorem frameCount_cons (t : State) (ts : List State) :
    frameCount (t :: ts) = frameCount ts + if t.outcome = .frame then 1 else 0 := by
  simp [frameCount, List.countP_cons]

/-! The shape of the frame output. -/

theorem slotShape_slotSig (k nf : Nat) (r : RawFace) : slotShape k nf (slotSig k nf r) = true := by
  have := BitVec.le_two_mul_toInt (x := r.id)
  have := BitVec.two_mul_toInt_lt (x := r.id)
  simp only [slotSig]
  split
  · simp [slotShape, decodeFace, sext8_eq_toInt]; omega
  · simp [slotShape]; omega

/-- The face count of a frame packet, as a number. -/
theorem Packet.faces_le_four {p : Packet} (h : p.facesIn 0 4 = true) : p.numFaces.toNat ≤ 4 := by
  have h := Packet.facesIn_iff.1 h
  have hi := BitVec.toInt_eq_toNat_cond p.numFaces
  split at hi <;> omega

theorem frameOf_shape {p : Packet} (h : p.facesIn 0 4 = true) : (frameOf p.numFaces.toNat p).shape = true := by
  have e : (frameOf p.numFaces.toNat p).numFaces.toNat = p.numFaces.toNat := by simp [frameOf]
  simp only [Frame.shape, e, maxFaces, Bool.and_eq_true, decide_eq_true_eq]
  exact ⟨⟨⟨⟨Packet.faces_le_four h, slotShape_slotSig _ _ _⟩, slotShape_slotSig _ _ _⟩, slotShape_slotSig _ _ _⟩,
    slotShape_slotSig _ _ _⟩

end Sys2Proof.Machine
end

