-- ==== Sys2Proof/Tests/Slice0.lean ====
section
/-! SUPPORT. Tests: the well-formedness checks refuse ill-formed operands; words written out from the spec's encodings decode to
what they stand for; worked examples of the rules (each named in the test's comment) come out as the spec says; and for each
obligation with hypotheses, a concrete state and operands that meet them. Expected values are the spec's own. -/

namespace Sys2Proof.Tests

open Sys2Proof.Machine

set_option Elab.async false

/-! The test states and packets of 95_test_vectors.md. -/

/-- The eight bytes of the face that qualifies: confidence 200, box 10 20 30 40, not recognized, id 0, facing. -/
def faceQ : List Byte := [0xC8, 0x0A, 0x14, 0x1E, 0x28, 0x00, 0x00, 0x01]

/-- Packet Q (R116). -/
def pktQ : List Byte := [0, 0, 0, 0, 1] ++ faceQ ++ List.replicate 25 0 ++ [0x5E, 0x21]

/-- Packet N0 (R115). -/
def pktN0 : List Byte := List.replicate 38 0 ++ [0x5F, 0x4E]

/-- Packet TWO (R117). -/
def pktTwo : List Byte :=
  [0, 0, 0, 0, 2] ++ faceQ ++ [0x96, 0x3C, 0x46, 0x14, 0x14, 0x5A, 0x02, 0x01] ++ List.replicate 17 0 ++ [0xD0, 0x49]

/-- The example of R118: three faces, the bytes of slot 3 all 0xEE. -/
def pktThree : List Byte := [0, 0, 0, 0, 3] ++ faceQ ++ faceQ ++ faceQ ++ List.replicate 8 0xEE ++ [0, 0xAE, 0x2F]

/-- Packet FOUR (R119). -/
def pktFour : List Byte :=
  [0x5A, 0xA5, 0x34, 0x12, 0x04, 0x01, 0x02, 0x03, 0x04, 0x05, 0x06, 0xFF, 0x01, 0x0B, 0x0C, 0x0D, 0x0E, 0x0F, 0x10, 0x7F, 0x00,
   0x15, 0x16, 0x17, 0x18, 0x19, 0x1A, 0x80, 0x01, 0x1F, 0x20, 0x21, 0x22, 0x23, 0x24, 0x00, 0x00, 0xAA, 0x6C, 0x6A]

/-- The all-0xFF buffer (R120). -/
def pktFF : List Byte := List.replicate 40 0xFF

/-- Forty bytes, all zero but `num_faces`. -/
def pktCount (b : Byte) : List Byte := [0, 0, 0, 0, b] ++ List.replicate 35 0

/-- The state `(next_unused_id, run_len, cal_remaining)` of 41_controller.md, with the vectors' configuration. -/
def st (id run cal : Byte) : State :=
  { State.ofConfig Config.ofVectors with nextUnusedId := id, runLen := run, calRemaining := cal }

/-- A full read of these bytes. -/
def rd (bs : List Byte) : CycleInput := ⟨false, true, 40, bs, true⟩

/-- The state in which the controller runs on the frame of these bytes. -/
def showing (s : State) (bs : List Byte) : State :=
  { s with outcome := .frame, frame := .drives (frameOf (byteAt bs 4).toNat (packetFields bs)) }

/-- The outcome is a next state of which `p` holds. -/
def nextWith (o : Host.Outcome State Fault Refusal) (p : State → Bool) : Bool :=
  match o with
  | .next t => p t
  | .fault _ => false
  | .refused _ => false

/-- The registers after it, as the spec writes them. -/
def regsAre (id run cal : Nat) (t : State) : Bool := decide (t.regs = ⟨id, run, cal⟩)

theorem exists_of_nextWith {o : Host.Outcome State Fault Refusal} {p : State → Bool} (h : nextWith o p = true) :
    ∃ t, o = .next t ∧ p t = true := by
  cases o with
  | next t => exact ⟨t, rfl, h⟩
  | fault => cases h
  | refused => cases h

/-! WellFormed refuses. -/

theorem test_wf_full_read_is_no_short_read : WellFormed (.cycShort true 40) = false := by decide
theorem test_wf_short_reads : WellFormed (.cycShort true 39) = true ∧ WellFormed (.cycShort false 40) = true := by decide
theorem test_wf_decN0 : WellFormed (.decN0 (.blank 1)) = false := by decide
theorem test_wf_decN1 : WellFormed (.decN1 (.blank 0)) = false ∧ WellFormed (.decN1 (.blank 2)) = false := by decide
theorem test_wf_decN2 : WellFormed (.decN2 (.blank 1)) = false ∧ WellFormed (.decN2 (.blank 3)) = false := by decide
theorem test_wf_decN3 : WellFormed (.decN3 (.blank 2)) = false ∧ WellFormed (.decN3 (.blank 4)) = false := by decide
theorem test_wf_decN4 : WellFormed (.decN4 (.blank 3)) = false ∧ WellFormed (.decN4 (.blank 5)) = false := by decide
theorem test_wf_decErr5 : WellFormed (.decErr5 (.blank 4)) = false ∧ WellFormed (.decErr5 (.blank 6)) = false := by decide
theorem test_wf_decErr6_7 : WellFormed (.decErr6_7 (.blank 5)) = false ∧ WellFormed (.decErr6_7 (.blank 8)) = false := by decide
theorem test_wf_decErr8_15 : WellFormed (.decErr8_15 (.blank 7)) = false ∧ WellFormed (.decErr8_15 (.blank 16)) = false := by
  decide
theorem test_wf_decErr16_31 : WellFormed (.decErr16_31 (.blank 15)) = false ∧ WellFormed (.decErr16_31 (.blank 32)) = false := by
  decide
theorem test_wf_decErr32_63 : WellFormed (.decErr32_63 (.blank 31)) = false ∧ WellFormed (.decErr32_63 (.blank 64)) = false := by
  decide
theorem test_wf_decErr64_127 :
    WellFormed (.decErr64_127 (.blank 63)) = false ∧ WellFormed (.decErr64_127 (.blank 0x80)) = false := by decide
theorem test_wf_decErrNeg : WellFormed (.decErrNeg (.blank 0x7F)) = false ∧ WellFormed (.decErrNeg (.blank 0)) = false := by
  decide

/-! Decoding: the byte `num_faces` bit by bit from R91, the signals of R90 and R92, the bytes of R93. -/

/-- What a full read with this `num_faces` byte decodes to. -/
def decodeCount (b : Byte) : Except DecodeReject Instr := decode (.cycle false true 40 (pktCount b))

theorem test_decode_rst : decode (.cycle true true 40 pktQ) = .ok .rst := by decide +kernel
theorem test_decode_cycShort : decode (.cycle false true 39 pktQ) = .ok (.cycShort true 39)
    ∧ decode (.cycle false true 41 pktQ) = .ok (.cycShort true 41)
    ∧ decode (.cycle false false 40 pktQ) = .ok (.cycShort false 40) := by decide +kernel
theorem test_decode_N0 : decodeCount 0b00000000 = .ok (.decN0 (.blank 0)) := by decide +kernel
theorem test_decode_N1 : decodeCount 0b00000001 = .ok (.decN1 (.blank 1)) := by decide +kernel
theorem test_decode_N2 : decodeCount 0b00000010 = .ok (.decN2 (.blank 2)) := by decide +kernel
theorem test_decode_N3 : decodeCount 0b00000011 = .ok (.decN3 (.blank 3)) := by decide +kernel
theorem test_decode_N4 : decodeCount 0b00000100 = .ok (.decN4 (.blank 4)) := by decide +kernel
theorem test_decode_ERR_5 : decodeCount 0b00000101 = .ok (.decErr5 (.blank 5)) := by decide +kernel
theorem test_decode_ERR_6_7 : decodeCount 0b00000110 = .ok (.decErr6_7 (.blank 6))
    ∧ decodeCount 0b00000111 = .ok (.decErr6_7 (.blank 7)) := by decide +kernel
theorem test_decode_ERR_8_15 : decodeCount 0b00001000 = .ok (.decErr8_15 (.blank 8))
    ∧ decodeCount 0b00001111 = .ok (.decErr8_15 (.blank 15)) := by decide +kernel
theorem test_decode_ERR_16_31 : decodeCount 0b00010000 = .ok (.decErr16_31 (.blank 16))
    ∧ decodeCount 0b00011111 = .ok (.decErr16_31 (.blank 31)) := by decide +kernel
theorem test_decode_ERR_32_63 : decodeCount 0b00100000 = .ok (.decErr32_63 (.blank 32))
    ∧ decodeCount 0b00111111 = .ok (.decErr32_63 (.blank 63)) := by decide +kernel
theorem test_decode_ERR_64_127 : decodeCount 0b01000000 = .ok (.decErr64_127 (.blank 64))
    ∧ decodeCount 0b01111111 = .ok (.decErr64_127 (.blank 127)) := by decide +kernel
theorem test_decode_ERR_NEG : decodeCount 0b10000000 = .ok (.decErrNeg (.blank 0x80))
    ∧ decodeCount 0b11111111 = .ok (.decErrNeg (.blank 0xFF)) := by decide +kernel
/-- Every field of packet FOUR at its offset (R81, R86, R119). -/
theorem test_decode_fields : decode (.cycle false true 40 pktFour) = .ok (.decN4 ⟨0x5A, 0xA5, 0x1234, 4,
    ⟨1, 2, 3, 4, 5, 6, 0xFF, 1⟩, ⟨0x0B, 0x0C, 0x0D, 0x0E, 0x0F, 0x10, 0x7F, 0⟩, ⟨0x15, 0x16, 0x17, 0x18, 0x19, 0x1A, 0x80, 1⟩,
    ⟨0x1F, 0x20, 0x21, 0x22, 0x23, 0x24, 0, 0⟩, 0xAA, 0x6A6C⟩) := by decide +kernel
theorem test_decode_crcVerify : decode (.verify pktN0) = .ok (.crcVerify { Packet.blank 0 with checksum := 0x4E5F }) := by
  decide +kernel
theorem test_decode_ctrl : decode (.ctrl true 1 true 4 false) = .ok .ctrlCountdown
    ∧ decode (.ctrl true 0 true 4 false) = .ok .ctrlEvalQualify ∧ decode (.ctrl true 0 false 4 false) = .ok .ctrlEvalFail
    ∧ decode (.ctrl true 0 true 4 true) = .ok .ctrlTrigger := by decide
theorem test_decode_ctrl_rejects : decode (.ctrl false 0 true 0 false) = .error .notSelected
    ∧ decode (.ctrl true 0 true 3 true) = .error .notSelected := by decide
theorem test_decode_calBegin : decode (.cmd2 [0x04, 0x01]) = .ok (.cmdCalBegin 0x04 0x01) := by decide
theorem test_decode_rejects_lengths : decode (.verify (pktN0.take 39)) = .error (.wrongLength 39)
    ∧ decode (.cmd2 [0x04]) = .error (.wrongLength 1) ∧ decode (.cmd2 [0x04, 1, 0]) = .error (.wrongLength 3) := by decide +kernel
/-- The bit view of R89: `num_faces` is bits 39 to 32 of the packet's word. -/
theorem test_table_word : decodeTableWord 320 (0x06 * 2 ^ 32) = decodeTableWord 8 0x06
    ∧ decodeTableWord 16 0x0104 = some (.cmdCalBegin 0x04 0x01) := by decide +kernel

/-! Worked examples, one step each. -/

/-- R113's check: 38 zero bytes give 0x4E5F; flipping bit 0 of offset 6 of Q gives 0x7818 (R125). -/
theorem test_crc_zero : crc16Default (List.replicate 38 0) = 0x4E5F := by decide +kernel
theorem test_crc_flip : crc16Default ((pktQ.set 6 0x0B).take 38) = 0x7818 := by decide +kernel
/-- R120's example: the all-0xFF buffer computes 0xAC39. -/
theorem test_crcVerify_ff : crc16Default (pktFF.take 38) = 0xAC39
    ∧ nextWith (exec (.crcVerify (packetFields pktFF)) (st 1 0 0)) (fun t => t.crcOk == .drives false) = true := by decide +kernel
/-- R113's example: Q matches. -/
theorem test_crcVerify_Q :
    nextWith (exec (.crcVerify (packetFields pktQ)) (st 1 0 0)) (fun t => t.crcOk == .drives true) = true := by decide +kernel
/-- R210's example: (4, 0, 13) goes to (1, 0, 0). -/
theorem test_rst : nextWith (step { st 4 0 13 with inputs := [⟨true, true, 40, pktQ, true⟩] })
    (fun t => regsAre 1 0 0 t && t.outcome == .reset && t.calls == []) = true := by decide +kernel
/-- R173's example: (1, 3, 0) with 39 bytes stays. -/
theorem test_cycShort : nextWith (step { st 1 3 0 with inputs := [⟨false, true, 39, pktQ.take 39, true⟩] })
    (fun t => regsAre 1 3 0 t && t.outcome == .busUnavailable && t.crcOk == .poison) = true := by decide +kernel
/-- R115's example. -/
theorem test_decN0 : nextWith (step { st 1 4 0 with inputs := [rd pktN0] })
    (fun t => regsAre 1 0 0 t && t.frame == .drives ⟨0, 0, .poison, .poison, .poison, .poison, 0x4E5F⟩ && t.crcOk == .drives true)
    = true := by decide +kernel
/-- R116's example. -/
theorem test_decN1 : nextWith (step { st 1 0 0 with inputs := [rd pktQ] })
    (fun t => t.frame == .drives ⟨0, 1, .drives ⟨200, 10, 20, 30, 40, 0, 0, 1⟩, .poison, .poison, .poison, 0x215E⟩) = true := by
  decide +kernel
/-- R117's example. -/
theorem test_decN2 : nextWith (step { st 1 4 0 with inputs := [rd pktTwo] })
    (fun t => t.readSlot 1 == .ok ⟨150, 60, 70, 20, 20, 90, 2, 1⟩ && t.readSlot 2 == .error (.poisonSlot 2) && regsAre 1 0 0 t)
    = true := by decide +kernel
/-- R118's example. -/
theorem test_decN3 : nextWith (step { st 1 0 0 with inputs := [rd pktThree] })
    (fun t => t.readSlot 3 == .error (.poisonSlot 3) && t.crcOk == .drives true) = true := by decide +kernel
/-- R119's example: the signs of `id`. -/
theorem test_decN4 : nextWith (step { st 1 0 0 with inputs := [rd pktFour] })
    (fun t => t.readSlot 0 == .ok ⟨1, 2, 3, 4, 5, 6, -1, 1⟩ && t.readSlot 2 == .ok ⟨21, 22, 23, 24, 25, 26, -128, 1⟩
      && t.crcOk == .drives true) = true := by decide +kernel
/-- R174's example: (1, 3, 0) with the all-0xFF packet stays. -/
theorem test_decErrNeg : nextWith (step { st 1 3 0 with inputs := [rd pktFF] })
    (fun t => regsAre 1 3 0 t && t.outcome == .faceCountOutOfRange && t.frame == .poison && t.crcOk == .drives false) = true := by
  decide +kernel
/-- R142's example: (2, 0, 20) goes to (2, 0, 19). -/
theorem test_countdown : nextWith (step { st 2 0 20 with inputs := [rd pktQ] })
    (fun t => regsAre 2 0 19 t && !t.cmdValid && t.phase == .calibrating) = true := by decide +kernel
/-- R145's example: (1, 3, 0) goes to (1, 4, 0). -/
theorem test_qualify : nextWith (step { st 1 3 0 with inputs := [rd pktQ] }) (fun t => regsAre 1 4 0 t && !t.cmdValid) = true := by
  decide +kernel
/-- R146's example: (1, 4, 0) with N0 goes to (1, 0, 0). -/
theorem test_fail : nextWith (exec .ctrlEvalFail (showing (st 1 4 0) pktN0)) (regsAre 1 0 0) = true := by decide +kernel
/-- R147's example: (1, 4, 0) goes to (2, 0, 20) with the write of 1 to register 0x04 of device 0x62. -/
theorem test_trigger : nextWith (step { st 1 4 0 with inputs := [rd pktQ] })
    (fun t => regsAre 2 0 20 t && t.readCmd == .ok (0x62, 0x04, 0x01) && t.calls == [.read 0x62 40, .write 0x62 0x04 0x01]) = true := by
  decide +kernel
/-- R147's corner: the last identity makes the capacity exhausted. -/
theorem test_trigger_last : nextWith (step { st 6 4 0 with inputs := [rd pktQ] })
    (fun t => regsAre 7 0 20 t && t.capacityExhausted) = true := by decide +kernel
/-- R144's corners: the threshold itself satisfies its term, one less does not; any nonzero byte faces. -/
theorem test_predicate_corners :
    triggerPredicate (showing (st 1 0 0) (pktQ.set 5 95)) = .ok true ∧ triggerPredicate (showing (st 1 0 0) (pktQ.set 5 94)) = .ok false
    ∧ triggerPredicate (showing (st 1 0 0) (pktQ.set 12 2)) = .ok true ∧ triggerPredicate (showing (st 1 0 0) (pktQ.set 10 0x80)) = .ok false
    ∧ triggerPredicate (showing (st 7 0 0) pktQ) = .ok false := by decide +kernel
/-- R148's example, and R176: the command is issued whatever `wr_ok` is. -/
theorem test_calBegin : nextWith (exec (.cmdCalBegin 0x04 0x01) (st 1 4 0)) (fun t => t.readCmd == .ok (0x62, 0x04, 0x01)) = true
    ∧ nextWith (step { st 1 4 0 with inputs := [⟨false, true, 40, pktQ, false⟩] }) (fun t => t.cmdValid) = true := by decide +kernel
/-- The words the host stages run as the first step after reset. -/
theorem test_withFetchWord : nextWith (step (State.reset.withFetchWord 8 0x04)) (fun t => t.outcome == .frame) = true
    ∧ nextWith (step (State.reset.withFetchWord 16 0x0504)) (fun t => t.readCmd == .ok (0x62, 0x04, 0x05)) = true := by
  decide +kernel

/-! Witnesses: for each obligation with hypotheses, a state and operands that meet all of them, each clause at its boundary. -/

/-- The slot-0 record of packet Q, decoded. -/
def recQ : FaceRecord := ⟨200, 10, 20, 30, 40, 0, 0, 1⟩

theorem qualifying_showing_Q {s : State} (hc : s.cfg.confThreshold = 95) (hid : s.nextUnusedId.toNat < s.cfg.maxIds.toNat) :
    (showing s pktQ).Qualifying :=
  ⟨_, recQ, rfl, rfl, rfl, by show s.cfg.confThreshold.toNat ≤ 200; rw [hc]; decide, rfl, by decide, hid⟩

/-- One identity is left, and the frame is Q. -/
theorem qualifies_Q (run : Byte) : (showing (st 6 run 0) pktQ).Qualifying := qualifying_showing_Q rfl (show 6 < 7 by decide)

theorem fails_N0 (run : Byte) : (showing (st 6 run 0) pktN0).Failing := ⟨_, rfl, .inl (by decide)⟩

theorem witness_DecodeOfEncodeIsTheOperation :
    (∀ i ∈ [Instr.rst, .cycShort true 39, .cycShort false 40, .decN0 (.blank 0), .decN1 (.blank 1), .decN2 (.blank 2),
      .decN3 (.blank 3), .decN4 (.blank 4), .decErr5 (.blank 5), .decErr6_7 (.blank 6), .decErr8_15 (.blank 8), .decErr16_31 (.blank 16),
      .decErr32_63 (.blank 32), .decErr64_127 (.blank 64), .decErrNeg (.blank 0x80), .crcVerify (.blank 9), .ctrlCountdown,
      .ctrlEvalQualify, .ctrlEvalFail, .ctrlTrigger, .cmdCalBegin 4 1], WellFormed i = true) ∧
    (∀ i ∈ [Instr.decErr6_7 (.blank 7), .decErr8_15 (.blank 15), .decErr16_31 (.blank 31), .decErr32_63 (.blank 63),
      .decErr64_127 (.blank 127), .decErrNeg (.blank 0xFF)], WellFormed i = true) := by decide

theorem witness_EncodeOfDecodeIsThePresentedBytes :
    (∃ i, decode (.cycle false true 40 pktFour) = .ok i) ∧ (∃ i, decode (.verify pktN0) = .ok i) ∧
    ∃ i, decode (.cmd2 [0x04, 0x01]) = .ok i :=
  ⟨⟨_, test_decode_fields⟩, ⟨_, test_decode_crcVerify⟩, ⟨_, test_decode_calBegin⟩⟩

theorem witness_DecodedOperationsAreWellFormed : ∃ x i, decode x = .ok i := ⟨_, _, test_decode_calBegin⟩

/-- Each clause: a reset with a full read; the counts 39 and 41 and a failed full read; full reads with the counts 0, 4, 5, 255. -/
theorem witness_CyclesAreClassifiedInOrder :
    decode (.cycle true true 40 pktQ) = .ok .rst ∧ (39 ≠ 40 ∧ 41 ≠ 40) ∧
    (∀ b ∈ [(0 : Byte), 4], (pktCount b).length = 40 ∧ 0 ≤ (byteAt (pktCount b) 4).toInt ∧ (byteAt (pktCount b) 4).toInt ≤ 4) ∧
    ∀ b ∈ [(5 : Byte), 255], (pktCount b).length = 40 ∧ ¬(0 ≤ (byteAt (pktCount b) 4).toInt ∧ (byteAt (pktCount b) 4).toInt ≤ 4) := by
  decide +kernel

theorem witness_StepRunsTheDecodedOperation : ∃ s bytes i, s.cfg.legal = true ∧ s.legalStart = true ∧
    fetchBytes s.nextInput (begun s) = .ok bytes ∧ decode (.cycle s.nextInput.rst s.nextInput.rdOk s.nextInput.rdCount bytes) = .ok i :=
  ⟨{ st 1 0 0 with inputs := [rd pktFour] }, pktFour, _, by decide, by decide, by decide +kernel, test_decode_fields⟩

theorem witness_ControllerStepRunsTheSelectedOperation :
    ((showing (st 2 0 1) pktQ).outcome = .frame ∧ 0 < (showing (st 2 0 1) pktQ).calRemaining.toNat) ∧
    ((showing (st 6 0 0) pktN0).calRemaining = 0 ∧ (showing (st 6 0 0) pktN0).Failing) ∧
    ((showing (st 6 3 0) pktQ).Qualifying ∧ (showing (st 6 3 0) pktQ).runLen.toNat + 1 < 5) ∧
    (showing (st 6 4 0) pktQ).Qualifying ∧ 5 ≤ (showing (st 6 4 0) pktQ).runLen.toNat + 1 :=
  ⟨⟨rfl, by decide⟩, ⟨rfl, fails_N0 0⟩, ⟨qualifies_Q 3, by decide⟩, qualifies_Q 4, by decide⟩

/-- The clauses of the buffer read at their boundaries: offsets 38, 39 and 40 of a 39-byte read. -/
theorem witness_CycleStartsWithTheReadRequest :
    let s := { st 1 0 0 with inputs := [⟨false, true, 39, pktQ, true⟩] }
    Memory.read (begun s).buf 38 = .ok 0x5E ∧ Memory.read (begun s).buf 39 = .error (.poisonByte 39)
    ∧ Memory.read (begun s).buf 40 = .error (.noSuchOffset 40) := by decide +kernel

theorem witness_CrcVerifyCompletes : ∃ p, parsePacket pktFour = .ok p := ⟨_, parsePacket_ok rfl⟩

/-- The countdown at its ends: 20, and 1 with a run length of 0. -/
theorem witness_CountdownCompletes :
    ((showing (st 2 0 20) pktQ).outcome = .frame ∧ 0 < (showing (st 2 0 20) pktQ).calRemaining.toNat) ∧
    (showing (st 2 0 1) pktQ).calRemaining = 1 ∧ (showing (st 2 0 1) pktQ).runLen = 0 := by decide +kernel

theorem witness_QualifyCompletes :
    ((showing (st 6 3 0) pktQ).outcome = .frame ∧ (showing (st 6 3 0) pktQ).calRemaining = 0 ∧ (showing (st 6 3 0) pktQ).Qualifying ∧
      (showing (st 6 3 0) pktQ).runLen.toNat + 1 < 5) ∧
    (showing (st 6 4 0) pktQ).Qualifying ∧ 5 ≤ (showing (st 6 4 0) pktQ).runLen.toNat + 1 :=
  ⟨⟨rfl, rfl, qualifies_Q 3, by decide⟩, qualifies_Q 4, by decide⟩

/-- Each way to fail: no face, one below the threshold, recognized, not facing, no identity left. -/
theorem witness_FailCompletes :
    ((showing (st 6 4 0) pktN0).outcome = .frame ∧ (showing (st 6 4 0) pktN0).calRemaining = 0 ∧ (showing (st 6 4 0) pktN0).Failing) ∧
    (showing (st 6 4 0) (pktQ.set 5 94)).Failing ∧ (showing (st 6 4 0) (pktQ.set 10 1)).Failing ∧
    (showing (st 6 4 0) (pktQ.set 12 0)).Failing ∧ (showing (st 7 0 0) pktQ).Failing :=
  ⟨⟨rfl, rfl, fails_N0 4⟩, ⟨_, rfl, .inr ⟨_, rfl, .inl (by decide)⟩⟩, ⟨_, rfl, .inr ⟨_, rfl, .inr (.inl (by decide))⟩⟩,
    ⟨_, rfl, .inr ⟨_, rfl, .inr (.inr (.inl (by decide)))⟩⟩, ⟨_, rfl, .inr ⟨_, rfl, .inr (.inr (.inr (by decide)))⟩⟩⟩

theorem witness_TriggerCompletes :
    (showing (st 6 4 0) pktQ).outcome = .frame ∧ (showing (st 6 4 0) pktQ).calRemaining = 0 ∧ (showing (st 6 4 0) pktQ).Qualifying ∧
    5 ≤ (showing (st 6 4 0) pktQ).runLen.toNat + 1 := ⟨rfl, rfl, qualifies_Q 4, by decide⟩

theorem witness_TriggerIssuesCalBegin : ∃ t, exec .ctrlTrigger (showing (st 6 4 0) pktQ) = .next t :=
  ⟨_, exec_trigger_eq_next.2 ⟨rfl, rfl, triggerPredicate_of_qualifying (qualifies_Q 4), rfl, rfl⟩⟩

theorem witness_UnselectedControllerOperationsAreRefused :
    (st 6 0 0).outcome ≠ .frame ∧ (st 6 0 0).calRemaining = 0 ∧ (st 6 0 1).calRemaining ≠ 0 ∧ (showing (st 6 4 0) pktN0).Failing ∧
    (showing (st 6 4 0) pktQ).Qualifying ∧ (showing (st 6 3 0) pktQ).Qualifying ∧ (showing (st 6 3 0) pktQ).runLen.toNat + 1 < 5 :=
  ⟨by decide, rfl, by decide, fails_N0 4, qualifies_Q 4, qualifies_Q 3, by decide⟩

theorem witness_DecoderOperationsFrame : ∃ i p s t, packetOf i = some p ∧ exec i s = .next t :=
  ⟨.decN1 (packetFields pktQ), _, st 1 0 0, _, rfl, rfl⟩

theorem witness_DecoderOperationsFrame_crcVerify : ∃ p s t, exec (.crcVerify p) s = .next t :=
  ⟨packetFields pktQ, st 1 0 0, _, rfl⟩

theorem witness_ControllerOperationsFrame :
    (∃ t, exec .ctrlCountdown (showing (st 2 0 1) pktQ) = .next t) ∧ (∃ t, exec .ctrlEvalQualify (showing (st 6 3 0) pktQ) = .next t) ∧
    (∃ t, exec .ctrlEvalFail (showing (st 6 4 0) pktN0) = .next t) ∧ ∃ t, exec .ctrlTrigger (showing (st 6 4 0) pktQ) = .next t :=
  ⟨⟨_, exec_countdown_eq_next.2 ⟨rfl, by decide, rfl⟩⟩,
    ⟨_, exec_qualify_eq_next.2 ⟨rfl, rfl, triggerPredicate_of_qualifying (qualifies_Q 3), rfl⟩⟩,
    ⟨_, exec_fail_eq_next.2 ⟨rfl, rfl, triggerPredicate_of_failing (fails_N0 4), rfl⟩⟩, witness_TriggerIssuesCalBegin⟩

theorem witness_CycleAndCommandOperationsFrame :
    (∃ t, exec .rst (st 4 0 13) = .next t) ∧ (∃ t, exec (.cycShort true 39) (st 1 3 0) = .next t) ∧
    ∃ t, exec (.cmdCalBegin 4 1) (st 1 4 0) = .next t := ⟨⟨_, rfl⟩, ⟨_, rfl⟩, _, rfl⟩

theorem witness_TriggerPredicateIsTheFiveTerms :
    (frameOf 0 (packetFields pktN0)).numFaces ≠ 1 ∧ (frameOf 2 (packetFields pktTwo)).numFaces ≠ 1 ∧
    (frameOf 1 (packetFields pktQ)).numFaces = 1 ∧ (frameOf 1 (packetFields pktQ)).slot0 = .drives recQ ∧
    (frameOf 4 (packetFields pktFour)).shape = true := by decide +kernel

theorem witness_SlotsFromTheCountOnArePoison :
    (∃ t, exec (.decN0 (packetFields pktN0)) (st 1 0 0) = .next t) ∧ (∃ t, exec (.decN3 (packetFields pktThree)) (st 1 0 0) = .next t) ∧
    ∃ t, exec (.decN4 (packetFields pktFour)) (st 1 0 0) = .next t := ⟨⟨_, rfl⟩, ⟨_, rfl⟩, _, rfl⟩

/-- The three clauses at their boundaries: lengths 39 and 40, face counts 0, 4, 5 and -1. -/
theorem witness_DecodeReturnsExactlyTheMeaningfulSlots :
    (pktQ.take 39).length ≠ 40 ∧ (∀ b ∈ [(0 : Byte), 4], 0 ≤ ((pktCount b).getD 4 0).toInt ∧ ((pktCount b).getD 4 0).toInt ≤ 4) ∧
    ∀ b ∈ [(5 : Byte), 0xFF], (pktCount b).length = 40 ∧ ¬(0 ≤ ((pktCount b).getD 4 0).toInt ∧ ((pktCount b).getD 4 0).toInt ≤ 4) := by
  decide +kernel

/-- R125's example: bit 0 of offset 6 of Q; and the last covered offset. -/
theorem witness_DefaultCrcDetectsEveryOneByteChange :
    pktQ[6]? ≠ some 0x0B ∧ pktQ[37]? ≠ some 1 ∧ parsePacket pktQ = .ok (packetFields pktQ)
    ∧ parsePacket (pktQ.set 6 0x0B) = .ok (packetFields (pktQ.set 6 0x0B)) ∧ parsePacket (pktQ.set 37 1) = .ok (packetFields (pktQ.set 37 1))
    ∧ crcMatches .ccittFalse (packetFields pktQ) = true := by decide +kernel

theorem witness_FrameFieldsAreThePacketBytes :
    (st 1 0 0).cfg.legal = true ∧ (st 1 0 0).legalStart = true ∧ pktFour.length = 40 ∧ (pktFour.getD 4 0).toNat ≤ 4
    ∧ (pktN0.getD 4 0).toNat ≤ 4 := by decide +kernel

theorem witness_ResetCycleAnswersTheResetState :
    let s := { st 4 0 13 with inputs := [⟨true, true, 40, pktQ, true⟩] }
    s.cfg.legal = true ∧ s.legalStart = true ∧ s.nextInput.rst = true := by decide +kernel

/-- A failed full read, and the counts 39 and 41. -/
theorem witness_ShortReadSkipsTheCycle : ∀ inp ∈ [(⟨false, false, 40, pktQ, true⟩ : CycleInput), ⟨false, true, 39, [], true⟩,
      ⟨false, true, 41, [], true⟩],
    let s := { st 1 3 0 with inputs := [inp] }
    s.cfg.legal = true ∧ s.legalStart = true ∧ s.nextInput.rst = false ∧ (s.nextInput.rdOk = false ∨ s.nextInput.rdCount ≠ 40) := by
  decide +kernel

theorem witness_FaceCountErrorSkipsTheController : (st 1 3 0).cfg.legal = true ∧ (st 1 3 0).legalStart = true ∧
    ∀ bs ∈ [pktFF, pktCount 5, pktCount 0x7F, pktCount 0x80],
      bs.length = 40 ∧ ¬(0 ≤ (bs.getD 4 0).toInt ∧ (bs.getD 4 0).toInt ≤ 4) := by decide +kernel

/-- The ends of each range, and the first values outside. -/
theorem witness_PowerUpChecksTheConfiguration :
    let ok (a : ConfigArgs) := 1 ≤ a.maxIds ∧ a.maxIds ≤ 255 ∧ a.devAddr ≤ 0x7F ∧ a.geomLayout ≤ 1
    ok ⟨95, 1, 0, .ccittFalse, 0, 4⟩ ∧ ok ⟨95, 255, 1, .other 3, 0x7F, 4⟩ ∧ ¬ok ⟨95, 0, 0, .ccittFalse, 0, 4⟩
    ∧ ¬ok ⟨95, 256, 0, .ccittFalse, 0, 4⟩ ∧ ¬ok ⟨95, 7, 0, .ccittFalse, 0x80, 4⟩ ∧ ¬ok ⟨95, 7, 2, .ccittFalse, 0, 4⟩ := by decide

/-- Each invariant of R44 violated alone. -/
theorem witness_IllegalStartStatesAreRefused :
    ({ Config.ofVectors with maxIds := 0 } : Config).legal = false ∧ (st 0 0 0).legalStart = false ∧ (st 8 0 0).legalStart = false
    ∧ (st 1 5 0).legalStart = false ∧ (st 1 0 21).legalStart = false ∧ (st 1 1 1).legalStart = false
    ∧ (st 7 4 0).legalStart = true ∧ (st 7 0 20).legalStart = true := by decide +kernel

theorem witness_MissingByteOfAFullReadFaults :
    let s := { st 1 0 0 with inputs := [⟨false, true, 40, pktQ.take 39, true⟩] }
    s.cfg.legal = true ∧ s.legalStart = true ∧ s.nextInput.full = true ∧ s.nextInput.rdData.length < 40 := by decide +kernel

theorem witness_NoReachableCycleStops : Config.ofVectors.legal = true ∧
    ∀ i ∈ [rd pktQ, rd pktFF, ⟨false, true, 39, [], true⟩, ⟨true, true, 40, [], true⟩], i.whole = true := by decide +kernel

/-- Two states that differ in an output and in the calls. -/
theorem witness_NothingElseSurvivesACycle :
    let s := st 1 3 0
    let t := { s with crcOk := .drives true, calls := [.read 0x62 40] }
    s ≠ t ∧ s.cfg = t.cfg ∧ s.nextUnusedId = t.nextUnusedId ∧ s.runLen = t.runLen ∧ s.calRemaining = t.calRemaining
    ∧ s.inputs = t.inputs ∧ s.cycleNo = t.cycleNo := by decide +kernel

theorem witness_ChecksumNeverGates : (st 1 4 0).cfg.legal = true ∧ (st 1 4 0).legalStart = true ∧ pktQ.length = 40
    ∧ (pktQ.set 39 0).length = 40 ∧ pktQ ≠ pktQ.set 39 0 ∧ pktQ.take 38 = (pktQ.set 39 0).take 38 := by decide +kernel

/-- Two reads that differ in the first and last byte of everything ignored. -/
theorem witness_IgnoredBytesReachOnlyCrcAndDataSize :
    let bs := pktQ
    let bs' := [0x12, 0x34, 0x28, 0xFF, 1] ++ faceQ ++ [9] ++ List.replicate 22 0 ++ [8, 0x99, 0x5E, 0x21]
    bs.length = 40 ∧ bs'.length = 40 ∧ bs ≠ bs' ∧ ∀ i, i < 40 →
      (i = 4 ∨ 38 ≤ i ∨ ((bs.getD 4 0).toNat ≤ 4 ∧ 5 ≤ i ∧ i < 5 + 8 * (bs.getD 4 0).toNat)) → bs[i]? = bs'[i]? := by decide +kernel

/-- Each kind of outcome of a step: a next state, a fault, a refusal. -/
theorem witness_GeometryLayoutOnlyNamesBytes :
    (∃ t, step { st 1 0 0 with inputs := [rd pktQ] } = .next t) ∧
    step { st 1 0 0 with inputs := [⟨false, true, 40, [], true⟩] } = .fault (.poisonByte 0) ∧ step (st 0 0 0) = .refused .illegalStart :=
  ⟨(step_total rfl rfl rfl).imp fun _ h => h.1, step_missing rfl rfl rfl (by decide), step_illegal_start rfl rfl⟩

/-- A frame, an error, a short read and a trigger. -/
theorem witness_OutputsArePoisonExactlyWhereStated :
    ∀ inp ∈ [rd pktQ, rd pktFF, (⟨false, true, 39, [], true⟩ : CycleInput), rd pktN0], ∃ t, (st 1 4 0).cfg.legal = true
      ∧ (st 1 4 0).legalStart = true ∧ step { st 1 4 0 with inputs := [inp] } = .next t := by
  have h : ∀ inp ∈ [rd pktQ, rd pktFF, (⟨false, true, 39, [], true⟩ : CycleInput), rd pktN0], inp.whole = true := by decide +kernel
  intro inp hin
  exact (step_total (s := { st 1 4 0 with inputs := [inp] }) rfl rfl (h inp hin)).imp fun _ h => ⟨rfl, rfl, h.1⟩

theorem witness_CommandsComeOnlyFromTriggers :
    (∃ t, step { st 6 4 0 with inputs := [rd pktQ] } = .next t ∧ t.cmdValid = true) ∧ qualifyingInput Config.ofVectors (rd pktQ) = true ∧
    ∃ t, step { st 6 3 0 with inputs := [rd pktQ] } = .next t ∧ (!t.cmdValid) = true :=
  ⟨exists_of_nextWith (p := State.cmdValid) (by decide +kernel), by decide +kernel,
    exists_of_nextWith (p := fun t => !t.cmdValid) (by decide +kernel)⟩

theorem witness_CountdownEndsInIdle : 0 < (st 2 0 1).calRemaining.toNat ∧
    ∃ t, step { st 2 0 1 with inputs := [rd pktQ] } = .next t ∧ decide (t.calRemaining.toNat = 0) = true :=
  ⟨by decide, exists_of_nextWith (p := fun t => decide (t.calRemaining.toNat = 0)) (by decide +kernel)⟩

/-- The states of a run exist and satisfy a check. -/
def runWith (n : Nat) (s : State) (p : List State → Bool) : Bool :=
  match statesAfter n s with
  | some ts => p ts
  | none => false

theorem exists_of_runWith {n : Nat} {s : State} {p : List State → Bool} (h : runWith n s p = true) :
    ∃ ts, statesAfter n s = some ts ∧ p ts = true := by
  simp only [runWith] at h
  split at h
  · exact ⟨_, by assumption, h⟩
  · cases h

/-- The last state of a run issued a command, and none of its cycles was a reset. -/
def endsInTrigger (ts : List State) : Bool := noReset ts && (ts.getLast?.map State.cmdValid == some true)

/-- Two frames and a short read from cal_remaining = 2. -/
theorem witness_CountdownCountsFramesAndIssuesNothing : (st 2 0 2).legalStart = true ∧
    ∃ ts, statesAfter 3 { st 2 0 2 with inputs := [rd pktQ, ⟨false, true, 39, [], true⟩, rd pktQ] } = some ts
      ∧ (noReset ts && decide (frameCount ts = 2)) = true :=
  ⟨by decide +kernel, exists_of_runWith (by decide +kernel)⟩

theorem witness_CapacityExhaustionIsPermanent : (st 7 0 0).legalStart = true ∧ (st 7 0 0).capacityExhausted = true ∧
    ∃ ts, statesAfter 2 { st 7 0 0 with inputs := [rd pktQ, rd pktQ] } = some ts ∧ noReset ts = true :=
  ⟨by decide +kernel, by decide +kernel, exists_of_runWith (by decide +kernel)⟩

theorem witness_PayloadsCountUpFromTheIdentityRegister : (st 6 4 0).legalStart = true ∧
    (∃ ts, statesAfter 1 { st 6 4 0 with inputs := [rd pktQ] } = some ts ∧ (noReset ts && payloads ts == [6]) = true) ∧
    ∃ ts, statesAfter 1 { State.ofConfig Config.ofVectors with inputs := [rd pktQ] } = some ts ∧ noReset ts = true :=
  ⟨by decide +kernel, exists_of_runWith (by decide +kernel), exists_of_runWith (by decide +kernel)⟩

/-- The state a first trigger leaves, with the vectors' configuration. -/
def justTriggered : State :=
  { showing (st 2 0 20) pktQ with
    crcOk := .drives true, cmdValid := true, cmdDev := .drives 0x62, cmdReg := .drives 0x04, cmdVal := .drives 1
    calls := [.read 0x62 40, .write 0x62 0x04 1] }

/-- The bound is met exactly: twenty-five frames of Q (the open checksum keeps the evaluation small). -/
theorem witness_TriggersAreAtLeast25FramesApart :
    let s := { justTriggered with cfg := { Config.ofVectors with crc16 := .other 0 }, inputs := List.replicate 25 (rd pktQ) }
    s.inv = true ∧ s.cmdValid = true ∧ ∃ ts, statesAfter 25 s = some ts ∧ endsInTrigger ts = true :=
  ⟨by decide +kernel, rfl, exists_of_runWith (by decide +kernel)⟩

theorem witness_TriggersOnlyAfterFiveConsecutiveQualifyingFrames :
    let s := { st 1 0 0 with cfg := { Config.ofVectors with crc16 := .other 0 }, inputs := List.replicate 5 (rd pktQ) }
    s.cfg.legal = true ∧ s.legalStart = true ∧ s.runLen = 0 ∧ ∃ ts, statesAfter 5 s = some ts ∧ endsInTrigger ts = true :=
  ⟨rfl, by decide +kernel, rfl, exists_of_runWith (by decide +kernel)⟩

/-- A skipped cycle of each kind and one qualifying frame before the last, from a run length of 3. -/
theorem witness_FiveQualifyingFramesTrigger :
    let s := { st 6 3 0 with inputs := [rd pktFF, rd pktQ, ⟨false, true, 39, [], true⟩] ++ rd pktQ :: [] }
    s.cfg.legal = true ∧ s.legalStart = true ∧ s.calRemaining = 0 ∧ s.nextUnusedId.toNat < s.cfg.maxIds.toNat ∧
    (∀ i ∈ [rd pktFF, rd pktQ, ⟨false, true, 39, [], true⟩], i.skipped = true ∨ qualifyingInput s.cfg i = true) ∧
    [rd pktFF, rd pktQ, ⟨false, true, 39, [], true⟩].countP (qualifyingInput s.cfg) + s.runLen.toNat = 4 ∧
    qualifyingInput s.cfg (rd pktQ) = true := by decide +kernel

theorem witness_ResetStatesSatisfyTheInvariant : ({ Config.ofVectors with maxIds := 1 } : Config).legal = true := by decide

theorem witness_EveryStepKeepsTheInvariant : justTriggered.inv = true ∧
    ∃ t, step { justTriggered with inputs := [rd pktQ] } = .next t :=
  ⟨by decide +kernel, (step_total rfl rfl rfl).imp fun _ h => h.1⟩

theorem witness_StepAgreesWithTheSpecsPseudocode :
    let s := { st 6 4 0 with inputs := [rd pktQ] }
    s.cfg.legal = true ∧ s.legalStart = true ∧ s.nextInput.whole = true := by decide +kernel

end Sys2Proof.Tests
end

/-! ## The state between cycles (10_state.md): the derived outputs and the POISON outputs -/

namespace Sys2Proof.Machine

/-! The derived outputs (R38, R39). -/

/-- The three phases exclude each other and are all there is (R38). -/
theorem State.phase_cases (s : State) :
    (0 < s.calRemaining.toNat ∧ s.phase = .calibrating) ∨
    (s.calRemaining.toNat = 0 ∧ 0 < s.runLen.toNat ∧ s.phase = .accumulating) ∨
    (s.calRemaining.toNat = 0 ∧ s.runLen.toNat = 0 ∧ s.phase = .idle) := by
  rcases Nat.eq_zero_or_pos s.calRemaining.toNat with hcal | hcal
  · rcases Nat.eq_zero_or_pos s.runLen.toNat with hrun | hrun
    · exact .inr (.inr ⟨hcal, hrun, by simp [State.phase, hcal, hrun]⟩)
    · exact .inr (.inl ⟨hcal, hrun, by simp [State.phase, hcal, hrun]⟩)
  · exact .inl ⟨hcal, if_pos hcal⟩

theorem State.phase_iff (s : State) :
    (s.phase = .calibrating ↔ 0 < s.calRemaining.toNat) ∧
    (s.phase = .accumulating ↔ s.calRemaining.toNat = 0 ∧ 0 < s.runLen.toNat) ∧
    (s.phase = .idle ↔ s.calRemaining.toNat = 0 ∧ s.runLen.toNat = 0) := by
  rcases s.phase_cases with ⟨hcal, h⟩ | ⟨hcal, hrun, h⟩ | ⟨hcal, hrun, h⟩
  · simp [h, hcal, hcal.ne']
  · simp [h, hcal, hrun, hrun.ne']
  · simp [h, hcal, hrun]

theorem Phase.code_injective : Function.Injective Phase.code := by
  intro a b
  cases a <;> cases b <;> decide

theorem State.capacityExhausted_iff {s : State} :
    s.capacityExhausted = true ↔ s.cfg.maxIds.toNat ≤ s.nextUnusedId.toNat := decide_eq_true_iff

/-- Settles O27, by the three cases of the registers and the injectivity of the phase codes. -/
theorem phaseAndCapacityAreDerived : Obligations.PhaseAndCapacityAreDerived := by
  intro s
  obtain ⟨hcalibrating, haccumulating, hidle⟩ := s.phase_iff
  exact ⟨hcalibrating, haccumulating, hidle, Phase.code_injective.eq_iff (b := .idle),
    Phase.code_injective.eq_iff (b := .accumulating), Phase.code_injective.eq_iff (b := .calibrating),
    State.capacityExhausted_iff⟩

/-! What reading an output answers, by whether it is driven (R40, R199). -/

theorem State.readFrame_of_drives {s : State} {f : Frame} (h : s.frame = .drives f) : s.readFrame = .ok f := by
  simp [State.readFrame, h]

theorem State.readFrame_of_poison {s : State} (h : s.frame = .poison) : s.readFrame = .error .poisonFrame := by
  simp [State.readFrame, h]

theorem State.readCrcOk_of_drives {s : State} {b : Bool} (h : s.crcOk = .drives b) : s.readCrcOk = .ok b := by
  simp [State.readCrcOk, h]

theorem State.readCrcOk_of_poison {s : State} (h : s.crcOk = .poison) : s.readCrcOk = .error .poisonCrcOk := by
  simp [State.readCrcOk, h]

theorem State.readCmd_of_drives {s : State} {d : BitVec 7} {r v : Byte} (hd : s.cmdDev = .drives d)
    (hr : s.cmdReg = .drives r) (hv : s.cmdVal = .drives v) : s.readCmd = .ok (d, r, v) := by
  simp [State.readCmd, hd, hr, hv]

theorem State.readCmd_of_poison {s : State} (hd : s.cmdDev = .poison) : s.readCmd = .error .poisonCommand := by
  simp [State.readCmd, hd]

/-! Each output after each kind of cycle (R40): driven, or POISON with a reader that faults. -/

section Outputs
variable {s t : State}

/-- `frame` is driven exactly in a cycle of outcome FRAME. -/
theorem StepCase.frame_output (h : StepCase s t) :
    (t.outcome = .frame → ∃ f, t.readFrame = .ok f) ∧
    (t.outcome ≠ .frame → t.frame = .poison ∧ t.readFrame = .error .poisonFrame) := by
  cases h with
  | rst | short | error => exact ⟨nofun, fun _ => ⟨rfl, State.readFrame_of_poison rfl⟩⟩
  | countdown | fail | qualify | trigger =>
    exact ⟨fun _ => ⟨_, State.readFrame_of_drives rfl⟩, fun ho => absurd rfl ho⟩

/-- `crc_ok` is driven exactly in a cycle whose read is a full one. -/
theorem StepCase.crcOk_output (h : StepCase s t) :
    (s.nextInput.full = true → ∃ b, t.readCrcOk = .ok b) ∧
    (s.nextInput.full = false → t.crcOk = .poison ∧ t.readCrcOk = .error .poisonCrcOk) := by
  cases h with
  | rst h =>
    have hs := CycleInput.not_full_of_rst h
    exact ⟨fun hf => by simp [hs] at hf, fun _ => ⟨rfl, State.readCrcOk_of_poison rfl⟩⟩
  | short _ hs => exact ⟨fun hf => by simp [hs] at hf, fun _ => ⟨rfl, State.readCrcOk_of_poison rfl⟩⟩
  | error _ hf | countdown _ hf | fail _ hf | qualify _ hf | trigger _ hf =>
    exact ⟨fun _ => ⟨_, State.readCrcOk_of_drives rfl⟩, fun hs => by simp [hf] at hs⟩

/-- The command fields are driven exactly in a cycle with `cmd_valid = 1`, which is a trigger's (R147, R148). -/
theorem StepCase.cmd_output (h : StepCase s t) :
    (t.cmdValid = true → ∃ c, t.readCmd = .ok c) ∧
    (t.cmdValid = false → t.cmdDev = .poison ∧ t.cmdReg = .poison ∧ t.cmdVal = .poison ∧
      t.readCmd = .error .poisonCommand) := by
  cases h with
  | rst | short | error | countdown | fail | qualify =>
    exact ⟨nofun, fun _ => ⟨rfl, rfl, rfl, State.readCmd_of_poison rfl⟩⟩
  | trigger => exact ⟨fun _ => ⟨_, State.readCmd_of_drives rfl rfl rfl⟩, nofun⟩

end Outputs

/-- Settles O43, output by output over the kinds of cycle. -/
theorem outputsArePoisonExactlyWhereStated : Obligations.OutputsArePoisonExactlyWhereStated := by
  intro s t hc hl h
  have hcase := step_cases hc hl h
  obtain ⟨hframe, hnoFrame⟩ := hcase.frame_output
  obtain ⟨hcrc, hnoCrc⟩ := hcase.crcOk_output
  obtain ⟨hcmd, hnoCmd⟩ := hcase.cmd_output
  exact ⟨hframe, hnoFrame, hcrc, hnoCrc, hcmd, hnoCmd⟩

end Sys2Proof.Machine

/-! ## The encoding (30_encoding.md): the rows of a packet, the fields of a frame, the layout that only names bytes -/

namespace Sys2Proof

/-! The twelve rows of R91. -/

/-- Two patterns that one byte matches agree on the bits that both of them fix. -/
theorem Row.values_agree_of_hits {r r' : Row} {b : Byte} (h : r.hits b = true) (h' : r'.hits b = true) :
    r.value &&& r'.mask = r'.value &&& r.mask := by
  rw [← beq_iff_eq.1 h, ← beq_iff_eq.1 h', BitVec.and_assoc, BitVec.and_assoc, BitVec.and_comm r.mask]

/-- Each two of the twelve patterns fix some bit differently, so that they are disjoint (R91). -/
theorem pktRows_disjoint : ∀ r ∈ pktRows, ∀ r' ∈ pktRows, r.value &&& r'.mask = r'.value &&& r.mask →
    r'.mask = r.mask ∧ r'.value = r.value := by
  decide

/-- The class of a packet is that of a row its face count matches (R91). -/
theorem exists_row_of_packet (p : Packet) :
    ∃ r ∈ pktRows, r.hits p.numFaces = true ∧ classify p = .ok (r.make p) := by
  obtain ⟨i, hi⟩ := classify_ok p
  cases hr : pktRows.find? (fun r => r.hits p.numFaces) with
  | none => simp [classify, hr] at hi
  | some r =>
    have hit : r.hits p.numFaces = true := List.find?_some (p := fun r : Row => r.hits p.numFaces) hr
    exact ⟨r, List.mem_of_find?_eq_some hr, hit, by simp [classify, hr]⟩

/-- A full read of a packet's bytes is decoded to the packet's class (R90 step 3). -/
theorem decode_fullRead (p : Packet) : decode (fullRead p) = classify p := by
  simp [fullRead, decode, parsePacket_encodePacket]

/-- A row's pattern selects exactly the packets whose face count is one of the row's values (R91). -/
theorem Row.hits_eq_wellFormed {r : Row} (hr : r ∈ pktRows) (p : Packet) : r.hits p.numFaces = WellFormed (r.make p) := by
  obtain ⟨h0, h1, h2, h3, h4, h5, h6, h8, h16, h32, h64, hneg⟩ := patterns_select_values p.numFaces
  simp only [pktRows, frameRows, errorRows, List.cons_append, List.nil_append, List.mem_cons, List.not_mem_nil, or_false] at hr
  rcases hr with rfl | rfl | rfl | rfl | rfl | rfl | rfl | rfl | rfl | rfl | rfl | rfl
  exacts [h0, h1, h2, h3, h4, h5, h6, h8, h16, h32, h64, hneg]

/-- A face count of at most 4 is in 0..4 when read signed. -/
theorem Packet.facesIn_of_toNat_le {p : Packet} (h : p.numFaces.toNat ≤ 4) : p.facesIn 0 4 = true := by
  have hi := BitVec.toInt_eq_toNat_cond p.numFaces
  exact Packet.facesIn_iff.2 (by split at hi <;> omega)

end Sys2Proof

namespace Sys2Proof.Machine

/-! What each row does. -/

/-- The rows of DEC.N0 to DEC.N4 have the face counts 0 to 4, and outcome FRAME (R115 to R119). -/
theorem outcome_of_frameRow {r : Row} (hr : r ∈ frameRows) {p : Packet} (hwf : WellFormed (r.make p) = true) (s : State) :
    p.facesIn 0 4 = true ∧ ∃ t, exec (r.make p) s = .next t ∧ t.outcome = .frame := by
  simp only [frameRows, List.mem_cons, List.not_mem_nil, or_false] at hr
  rcases hr with rfl | rfl | rfl | rfl | rfl <;>
  · have hb := Packet.bounds_of_facesIn hwf
    exact ⟨Packet.facesIn_iff.2 (by omega), _, rfl, rfl⟩

/-- The seven error rows have the other face counts, and outcome FACE_COUNT_OUT_OF_RANGE (R120). -/
theorem outcome_of_errorRow {r : Row} (hr : r ∈ errorRows) {p : Packet} (hwf : WellFormed (r.make p) = true) (s : State) :
    p.facesIn 0 4 = false ∧ ∃ t, exec (r.make p) s = .next t ∧ t.outcome = .faceCountOutOfRange := by
  simp only [errorRows, List.mem_cons, List.not_mem_nil, or_false] at hr
  rcases hr with rfl | rfl | rfl | rfl | rfl | rfl | rfl <;>
  · have hb := Packet.bounds_of_facesIn hwf
    exact ⟨Packet.not_facesIn_iff.2 (by omega), _, rfl, rfl⟩

/-- The outcome of a well-formed row is the one its face count, read signed, demands (R110, R112). -/
theorem outcome_of_row {r : Row} (hr : r ∈ pktRows) {p : Packet} (hwf : WellFormed (r.make p) = true) (s : State) :
    ∃ t, exec (r.make p) s = .next t ∧
      t.outcome = if 0 ≤ p.numFaces.toInt ∧ p.numFaces.toInt ≤ 4 then .frame else .faceCountOutOfRange := by
  rcases List.mem_append.1 hr with hr | hr
  · obtain ⟨hfaces, t, ht, ho⟩ := outcome_of_frameRow hr hwf s
    exact ⟨t, ht, by rw [ho, if_pos (Packet.facesIn_iff.1 hfaces)]⟩
  · obtain ⟨hfaces, t, ht, ho⟩ := outcome_of_errorRow hr hwf s
    exact ⟨t, ht, by rw [ho, if_neg (Packet.not_facesIn_iff.1 hfaces)]⟩

/-- Settles O2: the row is the one the decoder selects, and no other row shares a byte with it. -/
theorem everyPacketHasExactlyOneRow : Obligations.EveryPacketHasExactlyOneRow := by
  refine ⟨rfl, fun p => ⟨rfl, ?_⟩⟩
  obtain ⟨r, hr, hit, hclass⟩ := exists_row_of_packet p
  have hwf : WellFormed (r.make p) = true := by rw [← Row.hits_eq_wellFormed hr, hit]
  exact ⟨r, hr, hit, fun r' hr' hit' => pktRows_disjoint r hr r' hr' (Row.values_agree_of_hits hit hit'),
    by rw [decode_fullRead, hclass], hwf, outcome_of_row hr hwf⟩

/-! The frame of a packet's bytes (R88). -/

/-- The record decoded from the eight bytes at `base(k)` is slot `k` read at its offsets (R85, R86, R88). -/
theorem decodeFace_rawFaceAt (bs : List Byte) (k : Nat) : decodeFace (rawFaceAt bs (slotBase k)) = faceAtOffset bs k := by
  simp only [decodeFace, sext8_eq_toInt]
  rfl

/-- Slot `k` of the frame of a packet's bytes: its eight bytes below the face count, POISON from it on (R110, R114). -/
theorem frameOf_packetFields_slot (nf : Nat) (bs : List Byte) (k : Fin 4) :
    (frameOf nf (packetFields bs)).slot k = if k.val < nf then .drives (faceAtOffset bs k.val) else .poison := by
  rw [← decodeFace_rawFaceAt, frameOf_slot]
  match k with
  | 0 | 1 | 2 | 3 => rfl

/-- Settles O30: the cycle shows the frame of the packet's fields, and each field stands at its offset. -/
theorem frameFieldsAreThePacketBytes : Obligations.FrameFieldsAreThePacketBytes := by
  intro s bs w hc hl (hlen : bs.length = pktLen) hfaces
  have hp : parsePacket (bs.take pktLen) = .ok (packetFields bs) := by
    rw [List.take_of_length_le hlen.le, parsePacket_ok hlen]
  obtain ⟨t, ht, ho, hf, -⟩ := step_frame_outputs (s := s.presenting ⟨false, true, 40, bs, w⟩) hc hl rfl hlen.ge hp
    (Packet.facesIn_of_toNat_le hfaces)
  exact ⟨t, _, ht, ho, hf, BitVec.ofNat_toNat .., le16_toNat .., le16_toNat .., frameOf_packetFields_slot _ bs⟩

/-! The geometry layout (R98). -/

/-- Each kind of cycle is the same kind under another layout, with the same next state but for the layout. -/
theorem StepCase.step_withGeometry {s t : State} (hc : s.cfg.legal = true) (hl : s.legalStart = true)
    (hw : s.nextInput.whole = true) (g : GeomLayout) (h : StepCase s t) :
    step (s.withGeometry g) = .next (t.withGeometry g) := by
  have hbytes : s.nextInput.full = true → pktLen ≤ s.nextInput.rdData.length := fun hf => by
    simpa [CycleInput.whole, hf] using hw
  cases h with
  | rst h => exact step_rst (s := s.withGeometry g) hc hl h
  | short h hs => exact step_short (s := s.withGeometry g) hc hl h hs
  | error p hf hp he => exact step_error (s := s.withGeometry g) hc hl hf (hbytes hf) hp he
  | countdown p hf hp he h => exact step_countdown (s := s.withGeometry g) hc hl hf (hbytes hf) hp he h
  | fail p hf hp he h hq => exact step_fail (s := s.withGeometry g) hc hl hf (hbytes hf) hp he h hq
  | qualify p hf hp he h hq hr => exact step_qualify (s := s.withGeometry g) hc hl hf (hbytes hf) hp he h hq hr
  | trigger p hf hp he h hq hr => exact step_trigger (s := s.withGeometry g) hc hl hf (hbytes hf) hp he h hq hr

/-- A step commutes with a change of the layout (R98). -/
theorem step_withGeometry (s : State) (g : GeomLayout) :
    step (s.withGeometry g) = andThen (step s) (fun t => .next (t.withGeometry g)) := by
  cases hc : s.cfg.legal
  case false => rw [step_illegal_config hc, step_illegal_config (s := s.withGeometry g) hc, andThen_refused]
  cases hl : s.legalStart
  case false => rw [step_illegal_start hc hl, step_illegal_start (s := s.withGeometry g) hc hl, andThen_refused]
  cases hw : s.nextInput.whole
  case true =>
    obtain ⟨t, ht, hcase⟩ := step_total hc hl hw
    rw [ht, andThen_next, hcase.step_withGeometry hc hl hw g]
  case false =>
    simp only [CycleInput.whole, Bool.or_eq_false_iff, Bool.not_eq_false', decide_eq_false_iff_not, not_le] at hw
    obtain ⟨hf, hshort⟩ := hw
    rw [step_missing hc hl hf hshort, andThen_fault]
    exact step_missing (s := s.withGeometry g) hc hl hf hshort

/-- Settles O42: the step commutes with the layout, so each of its three outcomes is the same. -/
theorem geometryLayoutOnlyNamesBytes : Obligations.GeometryLayoutOnlyNamesBytes := by
  intro s g
  rw [step_withGeometry]
  refine ⟨fun t h => ?_, fun e h => ?_, fun e h => ?_, fun r => ⟨rfl, rfl⟩⟩
  · rw [h, andThen_next]
  · rw [h, andThen_fault]
  · rw [h, andThen_refused]

end Sys2Proof.Machine

/-! ## The decoder's own contract (40_decoder.md): a direct decode call -/

namespace Sys2Proof

/-- A face count in 0..4, read signed, is the byte's unsigned value. -/
theorem Packet.numFaces_toNat_of_facesIn {p : Packet} (h : p.facesIn 0 4 = true) :
    (p.numFaces.toNat : Int) = p.numFaces.toInt := by
  obtain ⟨hlo, -⟩ := Packet.facesIn_iff.1 h
  have hi := BitVec.toInt_eq_toNat_cond p.numFaces
  split at hi <;> omega

end Sys2Proof

namespace Sys2Proof.Machine

/-- A direct decode call on other than forty bytes is refused (R122). -/
theorem decodeCall_of_length_ne {raw : List Byte} (h : raw.length ≠ pktLen) :
    decodeCall raw = .refused (.undecodable (.wrongLength raw.length)) := by
  simp [decodeCall, parsePacket_of_length_ne raw h]

/-- A direct decode call on forty bytes decodes their fields (R110). -/
theorem decodeCall_of_length {raw : List Byte} (h : raw.length = pktLen) :
    decodeCall raw = .next (decodeFrame (packetFields raw)) := by
  simp [decodeCall, parsePacket_ok h]

/-- The face count of a frame assembled with a packet's own count (R110). -/
theorem frameOf_numFaces_self (p : Packet) : (frameOf p.numFaces.toNat p).numFaces = p.numFaces :=
  BitVec.ofNat_toNat ..

/-- Settles O28: the length decides between refusal and decoding, and the signed face count between error and frame. -/
theorem decodeReturnsExactlyTheMeaningfulSlots : Obligations.DecodeReturnsExactlyTheMeaningfulSlots := by
  intro raw
  refine ⟨decodeCall_of_length_ne, fun hlen => ?_⟩
  rw [decodeCall_of_length hlen]
  refine ⟨fun hin => ?_, fun hout => by rw [decodeFrame_of_not_facesIn (Packet.not_facesIn_iff.2 hout)]⟩
  have hfaces : (packetFields raw).facesIn 0 4 = true := Packet.facesIn_iff.2 hin
  have hcount : ((packetFields raw).numFaces.toNat : Int) = (raw.getD 4 0).toInt :=
    Packet.numFaces_toNat_of_facesIn hfaces
  refine ⟨_, by rw [decodeFrame_of_facesIn hfaces], ?_, fun k => ?_⟩
  · rw [frameOf_numFaces_self, hcount]
  · simp only [frameOf_packetFields_slot, ← hcount, Nat.cast_lt]

end Sys2Proof.Machine

/-! ## The controller (41_controller.md): the predicate, the operations, countdowns and the sequence of identities -/

namespace Sys2Proof.Machine

/-! The trigger predicate (R143, R144). -/

theorem facing_iff {b : Byte} : facing b = true ↔ b.toNat ≠ 0 := by
  rw [facing, bne_iff_ne, ne_eq, ← BitVec.toNat_inj]
  rfl

/-- A well-shaped frame of one face has a meaningful slot 0 (R37). -/
theorem Frame.slot0_drives_of_shape {f : Frame} (h : f.shape = true) (hn : f.numFaces = 1) :
    ∃ r, f.slot0 = .drives r := by
  cases hslot : f.slot0 with
  | drives r => exact ⟨r, rfl⟩
  | poison => simp [Frame.shape, hslot, hn, slotShape] at h

/-- Settles O25: the predicate on other than one face, on one face, and the slot that a well-shaped frame of one face has. -/
theorem triggerPredicateIsTheFiveTerms : Obligations.TriggerPredicateIsTheFiveTerms := by
  intro s f hf
  refine ⟨triggerPredicate_of_faces_ne hf, fun r hn hr => ⟨_, triggerPredicate_of_one hf hn hr, ?_⟩, fun hshape => ?_⟩
  · simp only [Bool.and_eq_true, decide_eq_true_eq, beq_iff_eq, facing_iff, and_assoc, ← BitVec.toNat_inj (x := r.idConfidence)]
    rfl
  · by_cases hn : f.numFaces = 1
    · obtain ⟨r, hr⟩ := Frame.slot0_drives_of_shape hshape hn
      exact ⟨_, triggerPredicate_of_one hf hn hr⟩
    · exact ⟨_, triggerPredicate_of_faces_ne hf hn⟩

/-! The operations (R142, R146, R147) and their selection (R141). -/

/-- Settles O8: what selects each operation is the countdown register, the predicate and the run length. -/
theorem controllerStepRunsTheSelectedOperation : Obligations.ControllerStepRunsTheSelectedOperation := by
  intro s ho
  exact ⟨ctrlStep_countdown ho,
    fun hcal hfail => ctrlStep_fail ho hcal (triggerPredicate_of_failing hfail),
    fun hcal hqual hrun => ctrlStep_qualify ho hcal (triggerPredicate_of_qualifying hqual) hrun,
    fun hcal hqual hrun => ctrlStep_trigger ho hcal (triggerPredicate_of_qualifying hqual) hrun⟩

/-- A qualifying frame is one with an identity left (R144). -/
theorem State.Qualifying.identity_left {s : State} (h : s.Qualifying) : s.nextUnusedId.toNat < s.cfg.maxIds.toNat := by
  obtain ⟨_, _, _, _, _, _, _, _, hroom⟩ := h
  exact hroom

/-- Settles O18: the capacity term of the predicate leaves room for the increment. -/
theorem triggerCompletes : Obligations.TriggerCompletes := by
  intro s ho hcal hqual hrun
  refine ⟨_, exec_trigger_eq_next.2 ⟨ho, hcal, triggerPredicate_of_qualifying hqual, decide_eq_true hrun, rfl⟩, ?_, rfl⟩
  have hroom := hqual.identity_left
  have hmax := s.cfg.maxIds.isLt
  rw [State.setRegs_nextUnusedId]
  bv_omega

theorem State.phase_idle {s : State} (hcal : s.calRemaining = 0) (hrun : s.runLen = 0) : s.phase = .idle := by
  obtain ⟨-, -, hidle⟩ := s.phase_iff
  exact hidle.2 (by simp [hcal, hrun])

/-- Settles O15: the one register written is the countdown, and its last value leaves the run length to decide the phase. -/
theorem countdownCompletes : Obligations.CountdownCompletes := by
  intro s ho hpos
  have hcal : s.calRemaining ≠ 0 := by bv_omega
  refine ⟨_, exec_countdown_eq_next.2 ⟨ho, hcal, rfl⟩, ?_, rfl, fun hone hrun => ?_⟩
  · rw [State.setRegs_calRemaining]
    bv_omega
  · exact State.phase_idle (by simp [hone]) hrun

/-- Settles O17: a failing frame makes the predicate false. -/
theorem failCompletes : Obligations.FailCompletes := by
  intro s ho hcal hfail
  exact exec_fail_eq_next.2 ⟨ho, hcal, triggerPredicate_of_failing hfail, rfl⟩

/-! The countdown (R149 to R151). -/

/-- During a countdown a cycle leaves `run_len` as it is, unless it is a reset, which clears it (R142, R149, R210). -/
theorem StepCase.runLen_of_countdown {s t : State} (h : StepCase s t) (hcal : s.calRemaining ≠ 0) :
    t.runLen = 0 ∨ t.runLen = s.runLen := by
  cases h with
  | rst => exact .inl rfl
  | short | error | countdown => exact .inr rfl
  | fail _ _ _ _ h0 | qualify _ _ _ _ h0 | trigger _ _ _ _ h0 => exact absurd h0 hcal

/-- Settles O45: `run_len` is 0 in a countdown (R44), and no cycle of it makes it another. -/
theorem countdownEndsInIdle : Obligations.CountdownEndsInIdle := by
  intro s t hc hl hpos hstep hend
  have hrun : s.runLen = 0 := by
    obtain ⟨-, -, -, -, hzero⟩ := legalStart_iff.1 hl
    bv_omega
  have hrun' : t.runLen = 0 := by
    rcases (step_cases hc hl hstep).runLen_of_countdown (by bv_omega) with h | h
    · exact h
    · exact h.trans hrun
  exact State.phase_idle (by bv_omega) hrun'

/-! Runs without a reset. -/

/-- A run without a reset from a legal start state, cycle by cycle, under one configuration. -/
inductive NoResetRun : State → List State → Prop where
  | nil {s : State} (hl : s.legalStart = true) : NoResetRun s []
  | cons {s t : State} {us : List State} (hcase : RegsCase s t) (hcfg : t.cfg = s.cfg) (rest : NoResetRun t us) :
      NoResetRun s (t :: us)

theorem noResetRun_of_statesAfter {n : Nat} {s : State} {ts : List State} (hl : s.legalStart = true)
    (hrun : statesAfter n s = some ts) (hreset : noReset ts = true) : NoResetRun s ts := by
  induction n generalizing s ts with
  | zero =>
    obtain rfl : [] = ts := Option.some.inj hrun
    exact .nil hl
  | succ n ih =>
    obtain ⟨t, us, hstep, hrest, rfl⟩ := statesAfter_succ hrun
    simp only [noReset, List.all_cons, Bool.and_eq_true, bne_iff_ne] at hreset
    obtain ⟨hcfg, hlegal⟩ := step_keeps_legal hstep
    exact .cons (step_regs hstep hreset.1) hcfg (ih hlegal hrest hreset.2)

theorem payloads_cons_of_none {t : State} (h : t.payload = none) (ts : List State) : payloads (t :: ts) = payloads ts :=
  List.filterMap_cons_none h

theorem payloads_cons_of_some {t : State} {v : Nat} (h : t.payload = some v) (ts : List State) :
    payloads (t :: ts) = v :: payloads ts :=
  List.filterMap_cons_some h

/-- A cycle of a run whose FRAME cycles the countdown covers issues no command, counts down if it is a FRAME cycle, and
writes nothing else. -/
theorem RegsCase.of_frameCount_le {s t : State} {us : List State} (h : RegsCase s t)
    (hle : frameCount (t :: us) ≤ s.calRemaining.toNat) :
    t.payload = none ∧ t.calRemaining.toNat + frameCount (t :: us) = s.calRemaining.toNat + frameCount us ∧
      t.runLen = s.runLen ∧ t.nextUnusedId = s.nextUnusedId := by
  cases h with
  | skipped ho hid hrun hcal _ hp => exact ⟨hp, by simp [frameCount_cons, ho, hcal], hrun, hid⟩
  | counted ho hid hrun hcal _ hp => exact ⟨hp, by rw [frameCount_cons, if_pos ho]; omega, hrun, hid⟩
  | cleared ho h0 | extended ho h0 | triggered ho h0 => simp [frameCount_cons, ho, h0] at hle

/-- Over a run whose FRAME cycles the countdown covers, no command is issued and the countdown alone falls. -/
theorem NoResetRun.of_frameCount_le {s : State} {ts : List State} (h : NoResetRun s ts)
    (hle : frameCount ts ≤ s.calRemaining.toNat) :
    payloads ts = [] ∧ (ts.getLastD s).calRemaining.toNat = s.calRemaining.toNat - frameCount ts ∧
      (ts.getLastD s).runLen = s.runLen ∧ (ts.getLastD s).nextUnusedId = s.nextUnusedId := by
  induction h with
  | nil => exact ⟨rfl, rfl, rfl, rfl⟩
  | cons hcase _ _ ih =>
    obtain ⟨hp, hcal, hrun, hid⟩ := hcase.of_frameCount_le hle
    obtain ⟨ihp, ihcal, ihrun, ihid⟩ := ih (by omega)
    rw [payloads_cons_of_none hp, List.getLastD_cons]
    exact ⟨ihp, by omega, ihrun.trans hrun, ihid.trans hid⟩

/-- Settles O46: what is left of the countdown covers the FRAME cycles still to come. -/
theorem countdownCountsFramesAndIssuesNothing : Obligations.CountdownCountsFramesAndIssuesNothing := by
  intro n s ts t _ hl hrun hreset hle hlast
  obtain rfl : ts.getLastD s = t := by rw [List.getLastD_eq_getLast?, hlast, Option.getD_some]
  exact (noResetRun_of_statesAfter hl hrun hreset).of_frameCount_le hle

/-! The identity sequence (R154). -/

/-- A cycle issues no command and leaves the identity register, or it issues the identity, which was below MAX_IDS, and
increments the register (R147). -/
theorem RegsCase.identity {s t : State} (h : RegsCase s t) :
    (t.payload = none ∧ t.nextUnusedId = s.nextUnusedId) ∨
    (t.payload = some s.nextUnusedId.toNat ∧ t.nextUnusedId.toNat = s.nextUnusedId.toNat + 1) := by
  cases h with
  | skipped _ hid _ _ _ hp | counted _ hid _ _ _ hp | cleared _ _ hid _ _ _ hp | extended _ _ _ hid _ _ _ hp =>
    exact .inl ⟨hp, hid⟩
  | triggered _ _ _ _ hid _ _ _ hp => exact .inr ⟨hp, hid⟩

/-- Over a run without a reset the payloads count up from the identity register and stay below MAX_IDS. -/
theorem NoResetRun.payloads_eq_range' {s : State} {ts : List State} (h : NoResetRun s ts) :
    payloads ts = List.range' s.nextUnusedId.toNat (payloads ts).length ∧
      s.nextUnusedId.toNat + (payloads ts).length ≤ s.cfg.maxIds.toNat := by
  induction h with
  | nil hl =>
    obtain ⟨-, hroom, -⟩ := legalStart_iff.1 hl
    exact ⟨rfl, hroom⟩
  | cons hcase hcfg _ ih =>
    obtain ⟨ihrange, ihroom⟩ := ih
    rw [hcfg] at ihroom
    rcases hcase.identity with ⟨hp, hid⟩ | ⟨hp, hid⟩
    · rw [payloads_cons_of_none hp, ← hid]
      exact ⟨ihrange, ihroom⟩
    · rw [hid] at ihrange ihroom
      rw [payloads_cons_of_some hp, List.length_cons, List.range'_succ, ← ihrange]
      exact ⟨rfl, by omega⟩

theorem ofConfig_legalStart {c : Config} (hc : c.legal = true) (ins : List CycleInput) :
    State.legalStart { State.ofConfig c with inputs := ins } = true :=
  legalStart_iff.2 ⟨le_rfl, Config.legal_iff.1 hc, Nat.zero_le 4, Nat.zero_le 20, .inl rfl⟩

/-- Settles O48: the payloads of any run, and those from the reset state, whose identity register is 1. -/
theorem payloadsCountUpFromTheIdentityRegister : Obligations.PayloadsCountUpFromTheIdentityRegister := by
  refine ⟨fun n s ts _ hl hrun hreset => (noResetRun_of_statesAfter hl hrun hreset).payloads_eq_range',
    fun n c ins ts hc hrun hreset => ?_⟩
  obtain ⟨hrange, hroom⟩ :=
    (noResetRun_of_statesAfter (ofConfig_legalStart hc ins) hrun hreset).payloads_eq_range'
  exact ⟨hrange, Nat.le_sub_of_add_le' hroom⟩

end Sys2Proof.Machine

/-! ## The poll cycle (42_poll_cycle.md): the two kinds of cycle that skip the controller -/

namespace Sys2Proof

/-- A read that failed, or that delivered another count than 40, does not reach the decoder (R173). -/
theorem CycleInput.not_full_of_short {inp : CycleInput} (h : inp.rdOk = false ∨ inp.rdCount ≠ pktLen) :
    inp.full = false := by
  rcases h with h | h <;> simp [CycleInput.full, h]

/-- The fields of the forty bytes that a full read of them delivers (R81). -/
theorem parsePacket_take_of_length {bs : List Byte} (h : bs.length = pktLen) :
    parsePacket (bs.take pktLen) = .ok (packetFields bs) := by
  rw [List.take_of_length_le h.le, parsePacket_ok h]

end Sys2Proof

namespace Sys2Proof.Machine

/-- A cycle without reset begins with every output gone, the read call issued and its bytes in the buffer (R171, R172). -/
theorem begun_of_not_rst {s : State} (h : s.nextInput.rst = false) :
    begun s = { s with
      buf := Memory.fill s.nextInput.delivered, frame := .poison, crcOk := .poison, cmdValid := false, cmdDev := .poison,
      cmdReg := .poison, cmdVal := .poison, calls := [.read s.cfg.devAddr pktLen], inputs := s.inputs.tail,
      cycleNo := s.cycleNo + 1 } := by
  simp [begun, State.present, State.popInput, h]

/-- Settles O32: a read of either kind is no full read, so the cycle ends as it began, but for its outcome. -/
theorem shortReadSkipsTheCycle : Obligations.ShortReadSkipsTheCycle := by
  intro s hc hl hrst hshort
  rw [step_short hc hl hrst (CycleInput.not_full_of_short hshort), begun_of_not_rst hrst]
  rfl

/-- Settles O33: the face count selects an error row, which runs beside the checksum of the same bytes. -/
theorem faceCountErrorSkipsTheController : Obligations.FaceCountErrorSkipsTheController := by
  intro s bs w hc hl (hlen : bs.length = pktLen) hfaces
  have hout : (packetFields bs).facesIn 0 4 = false := Packet.not_facesIn_iff.2 hfaces
  have hp : parsePacket (bs.take pktLen) = .ok (packetFields bs) := parsePacket_take_of_length hlen
  rw [step_error (s := s.presenting ⟨false, true, 40, bs, w⟩) hc hl rfl hlen.ge hp hout,
    begun_of_not_rst rfl, crcMatches_packetFields _ hlen]
  rfl

end Sys2Proof.Machine

/-! ## Reset (70_reset_and_hazards.md): the reset cycle -/

namespace Sys2Proof.Machine

/-- A reset cycle begins with every output gone, no call issued and an empty buffer (R171, R210). -/
theorem begun_of_rst {s : State} (h : s.nextInput.rst = true) :
    begun s = { s with
      buf := [], frame := .poison, crcOk := .poison, cmdValid := false, cmdDev := .poison, cmdReg := .poison,
      cmdVal := .poison, calls := [], inputs := s.inputs.tail, cycleNo := s.cycleNo + 1 } := by
  simp [begun, State.present, State.popInput, h]

/-- The outputs of the reset state are those of a reset cycle (R211, R212). -/
theorem ofConfig_outputs (c : Config) : (State.ofConfig c).outputs =
    ⟨.reset, .poison, .poison, false, .poison, .poison, .poison, .idle, decide (1 ≥ c.maxIds.toNat)⟩ := by
  have hphase : (State.ofConfig c).phase = .idle := State.phase_idle rfl rfl
  rw [State.outputs, hphase]
  rfl

/-- Settles O31: a reset cycle begins without a call, and RST writes every register and output that its start left. -/
theorem resetCycleAnswersTheResetState : Obligations.ResetCycleAnswersTheResetState := by
  intro s hc hl hrst
  refine ⟨?_, rfl, rfl, ofConfig_outputs s.cfg, rfl⟩
  rw [step_rst hc hl hrst, begun_of_rst hrst]
  rfl

end Sys2Proof.Machine

/-! ## The encoding (30_encoding.md), both ways: encode then decode, decode then encode -/

namespace Sys2Proof

/-- No two of the twelve rows have the same mask and match (R91). -/
theorem pktRows_patterns_nodup : (pktRows.map (fun r => (r.mask, r.value))).Nodup := by decide

/-- Two rows that one byte matches are the same row (R91). -/
theorem Row.eq_of_hits {r r' : Row} (hr : r ∈ pktRows) (hr' : r' ∈ pktRows) {b : Byte} (h : r.hits b = true)
    (h' : r'.hits b = true) : r' = r := by
  obtain ⟨hmask, hvalue⟩ := pktRows_disjoint r hr r' hr' (Row.values_agree_of_hits h h')
  exact List.inj_on_of_nodup_map pktRows_patterns_nodup hr' hr (Prod.ext hmask hvalue)

/-- A packet with a face count of a row's values is of that row's class (R91). -/
theorem classify_of_wellFormed {r : Row} (hr : r ∈ pktRows) {p : Packet} (hwf : WellFormed (r.make p) = true) :
    classify p = .ok (r.make p) := by
  obtain ⟨r', hr', hit', hclass⟩ := exists_row_of_packet p
  rw [hclass, Row.eq_of_hits hr hr' ((Row.hits_eq_wellFormed hr p).trans hwf) hit']

/-- Row `k` of the table, in the order of R91: a full read of a packet with one of its face counts is decoded to its class. -/
theorem decode_fullRead_of_row (k : Fin 12) {p : Packet} (hwf : WellFormed ((pktRows.get k).make p) = true) :
    decode (fullRead p) = .ok ((pktRows.get k).make p) := by
  rw [decode_fullRead, classify_of_wellFormed (List.get_mem pktRows k) hwf]

/-- A short read is decoded as one, whatever its bytes (R90 step 2). -/
theorem decode_cycle_short {rdOk : Bool} {n : Nat} (h : rdOk = false ∨ n ≠ pktLen) (bs : List Byte) :
    decode (.cycle false rdOk n bs) = .ok (.cycShort rdOk n) := by
  rcases h with h | h <;> simp [decode, h]

/-- A full read of forty bytes is decoded to the class of their fields (R90 steps 3 and 4). -/
theorem decode_cycle_full {bs : List Byte} {p : Packet} (h : parsePacket bs = .ok p) :
    decode (.cycle false true pktLen bs) = classify p := by
  simp [decode, h]

theorem decode_verify {bs : List Byte} {p : Packet} (h : parsePacket bs = .ok p) :
    decode (.verify bs) = .ok (.crcVerify p) := by
  simp [decode, h]

/-- The operands of CYC.SHORT fit exactly where the read is no full one (R90). -/
theorem wellFormed_cycShort_iff {rdOk : Bool} {n : Nat} :
    WellFormed (.cycShort rdOk n) = true ↔ rdOk = false ∨ n ≠ pktLen := by
  simp [WellFormed]

/-- Settles O3: a packet's class is the row its face count fits, and every other operand is presented as it stands. -/
theorem decodeOfEncodeIsTheOperation : Obligations.DecodeOfEncodeIsTheOperation := by
  intro i hwf
  cases i with
  | cycShort rdOk n => exact decode_cycle_short (wellFormed_cycShort_iff.1 hwf) []
  | decN0 p => exact decode_fullRead_of_row 0 hwf
  | decN1 p => exact decode_fullRead_of_row 1 hwf
  | decN2 p => exact decode_fullRead_of_row 2 hwf
  | decN3 p => exact decode_fullRead_of_row 3 hwf
  | decN4 p => exact decode_fullRead_of_row 4 hwf
  | decErr5 p => exact decode_fullRead_of_row 5 hwf
  | decErr6_7 p => exact decode_fullRead_of_row 6 hwf
  | decErr8_15 p => exact decode_fullRead_of_row 7 hwf
  | decErr16_31 p => exact decode_fullRead_of_row 8 hwf
  | decErr32_63 p => exact decode_fullRead_of_row 9 hwf
  | decErr64_127 p => exact decode_fullRead_of_row 10 hwf
  | decErrNeg p => exact decode_fullRead_of_row 11 hwf
  | crcVerify p => exact decode_verify (parsePacket_encodePacket p)
  | rst | ctrlCountdown | ctrlEvalQualify | ctrlEvalFail | ctrlTrigger | cmdCalBegin => rfl

/-- What is presented for a class is a full read of its packet (R90 step 3). -/
theorem encode_of_row {r : Row} (hr : r ∈ pktRows) (p : Packet) : encode (r.make p) = fullRead p := by
  simp only [pktRows, frameRows, errorRows, List.cons_append, List.nil_append, List.mem_cons, List.not_mem_nil, or_false] at hr
  rcases hr with rfl | rfl | rfl | rfl | rfl | rfl | rfl | rfl | rfl | rfl | rfl | rfl <;> rfl

/-- The class of a packet fits its row, and a full read of the packet is presented for it. -/
theorem classify_eq_ok {p : Packet} {i : Instr} (h : classify p = .ok i) : WellFormed i = true ∧ encode i = fullRead p := by
  obtain ⟨r, hr, hit, hclass⟩ := exists_row_of_packet p
  obtain rfl : r.make p = i := Except.ok.inj (hclass.symm.trans h)
  exact ⟨(Row.hits_eq_wellFormed hr p).symm.trans hit, encode_of_row hr p⟩

/-- What a cycle is decoded to: a reset, a short read, or the class of its packet (R90). -/
theorem decode_cycle_eq_ok {rst rdOk : Bool} {n : Nat} {bs : List Byte} {i : Instr}
    (h : decode (.cycle rst rdOk n bs) = .ok i) :
    (rst = true ∧ i = .rst) ∨ (rst = false ∧ (rdOk = false ∨ n ≠ pktLen) ∧ i = .cycShort rdOk n) ∨
    (rst = false ∧ rdOk = true ∧ n = pktLen ∧ ∃ p, parsePacket bs = .ok p ∧ classify p = .ok i) := by
  cases rst
  case true => exact .inl ⟨rfl, (Except.ok.inj h).symm⟩
  by_cases hs : rdOk = false ∨ n ≠ pktLen
  · exact .inr (.inl ⟨rfl, hs, Except.ok.inj (h.symm.trans (decode_cycle_short hs bs))⟩)
  · simp only [not_or, Bool.not_eq_false, ne_eq, not_not] at hs
    obtain ⟨rfl, rfl⟩ := hs
    cases hp : parsePacket bs with
    | ok p => exact .inr (.inr ⟨rfl, rfl, rfl, p, rfl, (decode_cycle_full hp).symm.trans h⟩)
    | error r => simp [decode, hp] at h

/-- What a packet for the verifier is decoded to: CRC.VERIFY of its fields. -/
theorem decode_verify_eq_ok {bs : List Byte} {i : Instr} (h : decode (.verify bs) = .ok i) :
    ∃ p, parsePacket bs = .ok p ∧ i = .crcVerify p := by
  cases hp : parsePacket bs with
  | ok p => exact ⟨p, rfl, Except.ok.inj (h.symm.trans (decode_verify hp))⟩
  | error r => simp [decode, hp] at h

/-- What a payload is decoded to: CMD.CAL_BEGIN of its two bytes (R93). -/
theorem decode_cmd2_eq_ok {bs : List Byte} {i : Instr} (h : decode (.cmd2 bs) = .ok i) :
    ∃ reg val, bs = [reg, val] ∧ i = .cmdCalBegin reg val := by
  match bs with
  | [reg, val] => exact ⟨reg, val, rfl, (Except.ok.inj h).symm⟩
  | [] | [_] | _ :: _ :: _ :: _ => cases h

/-- What the controller's signals select: one of its four operations (R92). -/
theorem selectCtrl_eq_ok {isFrame : Bool} {cal : Byte} {q : Bool} {run : Byte} {aq : Bool} {i : Instr}
    (h : selectCtrl isFrame cal q run aq = .ok i) :
    i ∈ [Instr.ctrlCountdown, .ctrlEvalQualify, .ctrlEvalFail, .ctrlTrigger] := by
  cases isFrame
  case false => cases h
  cases aq
  case true =>
    by_cases hr : hystN ≤ run.toNat + 1
    · obtain rfl := Except.ok.inj ((if_pos hr).symm.trans h)
      simp
    · cases (if_neg hr).symm.trans h
  by_cases hcal : 0 < cal.toNat
  · obtain rfl := Except.ok.inj ((if_pos hcal).symm.trans h)
    simp
  · have h := (if_neg hcal).symm.trans h
    cases q <;> cases h <;> simp

/-- Settles O4: the bytes of the fields are the bytes, and the two payload bytes are the operands. -/
theorem encodeOfDecodeIsThePresentedBytes : Obligations.EncodeOfDecodeIsThePresentedBytes := by
  intro bs i
  refine ⟨fun h => ?_, fun h => ?_, fun h => ?_⟩
  · obtain ⟨hrst, -⟩ | ⟨-, hs, -⟩ | ⟨-, -, -, p, hp, hclass⟩ := decode_cycle_eq_ok h
    · cases hrst
    · simp [pktLen] at hs
    · rw [(classify_eq_ok hclass).2, fullRead, encodePacket_of_parsePacket hp]
      rfl
  · obtain ⟨p, hp, rfl⟩ := decode_verify_eq_ok h
    rw [encode, encodePacket_of_parsePacket hp]
  · obtain ⟨reg, val, rfl, rfl⟩ := decode_cmd2_eq_ok h
    rfl

/-- Settles O5, by what each of the four formats is decoded to. -/
theorem decodedOperationsAreWellFormed : Obligations.DecodedOperationsAreWellFormed := by
  intro x i h
  cases x with
  | cycle rst rdOk n bs =>
    obtain ⟨-, rfl⟩ | ⟨-, hs, rfl⟩ | ⟨-, -, -, p, -, hclass⟩ := decode_cycle_eq_ok h
    · rfl
    · exact wellFormed_cycShort_iff.2 hs
    · exact (classify_eq_ok hclass).1
  | verify bs =>
    obtain ⟨p, -, rfl⟩ := decode_verify_eq_ok h
    rfl
  | ctrl isFrame cal q run aq =>
    have hi := selectCtrl_eq_ok h
    simp only [List.mem_cons, List.not_mem_nil, or_false] at hi
    rcases hi with rfl | rfl | rfl | rfl <;> rfl
  | cmd2 bs =>
    obtain ⟨reg, val, -, rfl⟩ := decode_cmd2_eq_ok h
    rfl

/-- The class of a packet is a frame row's where its face count, read signed, is in 0..4, and an error row's elsewhere. -/
theorem classify_mem_rows (p : Packet) :
    (p.facesIn 0 4 = true ∧ classify p ∈ frameRows.map (fun r => .ok (r.make p))) ∨
    (p.facesIn 0 4 = false ∧ classify p ∈ errorRows.map (fun r => .ok (r.make p))) := by
  obtain ⟨r, hr, hit, hclass⟩ := exists_row_of_packet p
  have hwf : WellFormed (r.make p) = true := (Row.hits_eq_wellFormed hr p).symm.trans hit
  rw [hclass]
  rcases List.mem_append.1 hr with hr | hr
  · exact .inl ⟨(Machine.outcome_of_frameRow hr hwf .reset).1, List.mem_map_of_mem (f := fun r : Row => Except.ok (r.make p)) hr⟩
  · exact .inr ⟨(Machine.outcome_of_errorRow hr hwf .reset).1, List.mem_map_of_mem (f := fun r : Row => Except.ok (r.make p)) hr⟩

/-- Settles O6: the three clauses are the decoder's three branches, the last split by the class of the packet. -/
theorem cyclesAreClassifiedInOrder : Obligations.CyclesAreClassifiedInOrder := by
  intro rst rdOk n bs
  refine ⟨?_, ?_, ?_⟩
  · rintro rfl
    rfl
  · rintro rfl hs
    exact decode_cycle_short hs bs
  · rintro rfl rfl rfl hlen
    refine ⟨packetFields bs, encodePacket_packetFields hlen, ?_⟩
    rw [show decode (.cycle false true 40 bs) = _ from decode_cycle_full (parsePacket_ok hlen)]
    rcases classify_mem_rows (packetFields bs) with ⟨hin, hclass⟩ | ⟨hout, hclass⟩
    · obtain ⟨hlo, hhi⟩ := Packet.facesIn_iff.1 hin
      exact .inl ⟨hlo, hhi, hclass⟩
    · exact .inr ⟨Packet.not_facesIn_iff.1 hout, hclass⟩

/-- Settles O1: the five inputs are short, so the decoder is run on them. -/
theorem knownWordsDecode : Obligations.KnownWordsDecode := by
  refine ⟨rfl, rfl, ?_, ?_, rfl⟩ <;> decide

end Sys2Proof

/-! ## The operations: where each completes or is refused, its whole next state, and its frame -/

namespace Sys2Proof.Machine

/-! The cycle and command rows (70_reset_and_hazards.md R210, 42_poll_cycle.md R173, 41_controller.md R148). -/

/-- RST writes the reset registers and the outputs of R211 (R210, R43). -/
theorem exec_rst (s : State) : exec .rst s = .next ((s.raise .reset).undriveCrc.noCommand.setRegs 1 0 0) := rfl

/-- CYC.SHORT reports BUS_UNAVAILABLE and drives nothing (R173). -/
theorem exec_cycShort (rdOk : Bool) (n : Nat) (s : State) :
    exec (.cycShort rdOk n) s = .next (s.raise .busUnavailable).undriveCrc.noCommand := rfl

/-- CMD.CAL_BEGIN issues the write of its two payload bytes (R148). -/
theorem exec_cmdCalBegin (reg val : Byte) (s : State) : exec (.cmdCalBegin reg val) s = .next (s.issueWrite reg val) := rfl

/-- Settles O10: the next state's registers are the reset values, from which its derived outputs follow. -/
theorem rstCompletes : Obligations.RstCompletes := by
  intro s
  refine ⟨_, exec_rst s, ?_⟩
  have hphase := State.phase_idle (s := (s.raise .reset).undriveCrc.noCommand.setRegs 1 0 0) rfl rfl
  exact ⟨rfl, rfl, rfl, rfl, rfl, rfl, rfl, rfl, hphase, rfl⟩

/-- Settles O11: the operation's three updates, with every field written out. -/
theorem cycShortCompletes : Obligations.CycShortCompletes := exec_cycShort

/-- Settles O19: the write that it issues, with every field written out. -/
theorem calBeginCompletes : Obligations.CalBeginCompletes := exec_cmdCalBegin

/-- Settles O24, operation by operation. -/
theorem cycleAndCommandOperationsFrame : Obligations.CycleAndCommandOperationsFrame := by
  intro i rdOk n reg val s t hi h
  simp only [List.mem_cons, List.not_mem_nil, or_false] at hi
  rcases hi with rfl | rfl | rfl
  · obtain rfl := Host.Outcome.next.inj ((exec_rst s).symm.trans h)
    exact ⟨rfl, rfl, rfl, fun _ => rfl, fun hne => absurd rfl hne, nofun, fun _ => rfl⟩
  · obtain rfl := Host.Outcome.next.inj ((exec_cycShort rdOk n s).symm.trans h)
    exact ⟨rfl, rfl, rfl, fun _ => rfl, fun _ => ⟨rfl, rfl, rfl⟩, nofun, fun _ => rfl⟩
  · obtain rfl := Host.Outcome.next.inj ((exec_cmdCalBegin reg val s).symm.trans h)
    exact ⟨rfl, rfl, rfl, fun _ => rfl, fun _ => ⟨rfl, rfl, rfl⟩, fun _ => ⟨rfl, rfl, rfl⟩, fun hne => absurd rfl hne⟩

/-! The packet rows (40_decoder.md R110 to R121). -/

/-- The class operation with face count `k` (R115 to R119). -/
def frameClass (k : Fin 5) (p : Packet) : Instr :=
  match k with
  | 0 => .decN0 p
  | 1 => .decN1 p
  | 2 => .decN2 p
  | 3 => .decN3 p
  | 4 => .decN4 p

/-- A frame class reports FRAME with the frame of its own face count (R110, R175). -/
theorem exec_frameClass (k : Fin 5) (p : Packet) (s : State) :
    exec (frameClass k p) s = .next (s.report .frame (.drives (frameOf k.val p))) := by
  match k with
  | 0 | 1 | 2 | 3 | 4 => rfl

/-- CRC.VERIFY drives `crc_ok` (R113). -/
theorem exec_crcVerify (p : Packet) (s : State) : exec (.crcVerify p) s = .next (s.driveCrc (crcMatches s.cfg.crc16 p)) := rfl

/-- A meaningful slot is the decoded record: sign extension gives the two's-complement value (R88). -/
theorem meaningfulSlot_eq (r : RawFace) : meaningfulSlot r = .drives (decodeFace r) := by
  rw [decodeFace, sext8_eq_toInt]
  rfl

/-- A slot below the face count is meaningful (R114). -/
theorem slotSig_of_lt {k nf : Nat} (h : k < nf) (r : RawFace) : slotSig k nf r = meaningfulSlot r :=
  (if_pos h).trans (meaningfulSlot_eq r).symm

/-- A slot from the face count on is POISON (R114). -/
theorem slotSig_of_le {k nf : Nat} (h : nf ≤ k) (r : RawFace) : slotSig k nf r = .poison := if_neg (by omega)

/-- Settles O12: the five statements are the five face counts of one lemma. -/
theorem frameClassesComplete : Obligations.FrameClassesComplete := by
  intro p s
  simp only [meaningfulSlot_eq]
  exact ⟨exec_frameClass 0 p s, exec_frameClass 1 p s, exec_frameClass 2 p s, exec_frameClass 3 p s, exec_frameClass 4 p s⟩

/-- Settles O13: the seven rows raise the one error. -/
theorem faceCountErrorsComplete : Obligations.FaceCountErrorsComplete := by
  intro p s i hi
  simp only [List.mem_cons, List.not_mem_nil, or_false] at hi
  rcases hi with rfl | rfl | rfl | rfl | rfl | rfl | rfl <;> rfl

/-- What reading a slot answers, by whether the frame drives it (R199, R215). -/
theorem State.readSlot_of_drives {s : State} {f : Frame} (h : s.frame = .drives f) {k : Fin 4} {r : FaceRecord}
    (hr : f.slot k = .drives r) : s.readSlot k = .ok r := by
  simp [State.readSlot, State.readFrame_of_drives h, hr]

theorem State.readSlot_of_poison {s : State} {f : Frame} (h : s.frame = .drives f) {k : Fin 4} (hr : f.slot k = .poison) :
    s.readSlot k = .error (.poisonSlot k.val) := by
  simp [State.readSlot, State.readFrame_of_drives h, hr]

/-- Settles O26: the class's frame has slot `k` of the packet below its count and POISON from it on. -/
theorem slotsFromTheCountOnArePoison : Obligations.SlotsFromTheCountOnArePoison := by
  intro p s t n (h : exec (frameClass n p) s = .next t) k
  obtain rfl := Host.Outcome.next.inj ((exec_frameClass n p s).symm.trans h)
  refine ⟨fun hlt => ⟨_, State.readSlot_of_drives rfl ((frameOf_slot _ p k).trans (slotSig_of_lt hlt _)), rfl⟩, fun hle => ?_⟩
  exact State.readSlot_of_poison rfl ((frameOf_slot _ p k).trans (slotSig_of_le hle _))

/-- A packet class only reports an outcome with a frame (R121). -/
theorem exec_of_packetOf {i : Instr} {p : Packet} (h : packetOf i = some p) (s : State) :
    ∃ o f, exec i s = .next (s.report o f) := by
  cases i with
  | decN0 | decN1 | decN2 | decN3 | decN4 | decErr5 | decErr6_7 | decErr8_15 | decErr16_31 | decErr32_63 | decErr64_127
  | decErrNeg => exact ⟨_, _, rfl⟩
  | rst | cycShort | crcVerify | ctrlCountdown | ctrlEvalQualify | ctrlEvalFail | ctrlTrigger | cmdCalBegin => cases h

/-- Settles O22: a class reports, CRC.VERIFY drives `crc_ok`, and neither is the other. -/
theorem decoderOperationsFrame : Obligations.DecoderOperationsFrame := by
  intro i p s t hi h
  rcases hi with hi | rfl
  · obtain ⟨o, f, hex⟩ := exec_of_packetOf hi s
    obtain rfl := Host.Outcome.next.inj (hex.symm.trans h)
    exact ⟨rfl, rfl, rfl, rfl, rfl, rfl, rfl, rfl, rfl, rfl, rfl, fun _ => rfl, fun _ => rfl, by rintro rfl; cases hi⟩
  · obtain rfl := Host.Outcome.next.inj ((exec_crcVerify p s).symm.trans h)
    exact ⟨rfl, rfl, rfl, rfl, rfl, rfl, rfl, rfl, rfl, rfl, rfl, fun _ => rfl, nofun, fun _ => ⟨rfl, rfl⟩⟩

/-- Settles O14: the bytes that a packet is the fields of have the covered bytes and the checksum at their offsets. -/
theorem crcVerifyCompletes : Obligations.CrcVerifyCompletes := by
  intro p s
  refine ⟨_, exec_crcVerify p s, rfl, fun bs hp => ?_⟩
  have hlen := parsePacket_length hp
  obtain rfl : packetFields bs = p := Except.ok.inj ((parsePacket_ok hlen).symm.trans hp)
  exact congrArg Sig.drives (crcMatches_packetFields _ hlen)

/-! The default CRC16 (R113, R125). -/

/-- One byte step tells two bytes apart: their difference enters at bits 15:8. -/
theorem crcByte_inj_byte {c : Half} {a b : Byte} (h : crcByte c a = crcByte c b) : a = b := by
  have hx := (BitVec.xor_right_inj c).1 (crcBits_inj h)
  apply BitVec.eq_of_toNat_eq
  have ha := a.isLt
  have hb := b.isLt
  have hx := congrArg BitVec.toNat hx
  simp only [BitVec.toNat_shiftLeft, BitVec.toNat_setWidth, Nat.shiftLeft_eq] at hx
  omega

/-- The default CRC16 of bytes with one of them replaced is the replacement's own (R125). -/
theorem crc16Default_set_inj {ds : List Byte} {i : Nat} {a b : Byte} (hi : i < ds.length)
    (h : crc16Default (ds.set i a) = crc16Default (ds.set i b)) : a = b := by
  simp only [crc16Default, List.set_eq_take_append_cons_drop, hi, if_true, List.foldl_append, List.foldl_cons] at h
  exact crcByte_inj_byte (foldl_crcByte_inj h)

/-- A matching packet's checksum is the CRC16 of its covered bytes (R113). -/
theorem crcMatches_iff {c : Crc16Arg} {bs : List Byte} {p : Packet} (h : parsePacket bs = .ok p) :
    crcMatches c p = true ↔ crc16 c (bs.take 38) = p.checksum := by
  rw [crcMatches, coveredBytes, encodePacket_of_parsePacket h, beq_iff_eq]

/-- A byte below offset 38 is no part of the checksum. -/
theorem checksum_set {bs : List Byte} {i : Nat} (hi : i < 38) (b : Byte) :
    (packetFields (bs.set i b)).checksum = (packetFields bs).checksum := by
  simp [packetFields, byteAt, List.getD_eq_getElem?_getD, List.getElem?_set_ne (show i ≠ 38 by omega),
    List.getElem?_set_ne (show i ≠ 39 by omega)]

/-- Settles O29: the checksum is the same, so a match would make the two CRC16 values equal, and with them the two bytes. -/
theorem defaultCrcDetectsEveryOneByteChange : Obligations.DefaultCrcDetectsEveryOneByteChange := by
  intro bs i b p q hi hne hp hq hmatch
  have hlen := parsePacket_length hp
  obtain rfl := Except.ok.inj ((parsePacket_ok hlen).symm.trans hp)
  obtain rfl := Except.ok.inj ((parsePacket_ok ((List.length_set ..).trans hlen)).symm.trans hq)
  have hib : i < bs.length := by rw [hlen, pktLen]; omega
  rw [← Bool.not_eq_true, crcMatches_iff hq, checksum_set hi, ← (crcMatches_iff hp).1 hmatch]
  intro heq
  apply hne
  rw [List.getElem?_eq_getElem hib]
  have hself : bs.take 38 = (bs.take 38).set i bs[i] := by
    rw [← List.take_set, List.set_getElem_self]
  rw [List.take_set, hself, crc16, crc16, List.set_set] at heq
  exact congrArg some (crc16Default_set_inj (by simp; omega) heq).symm

/-! The controller rows (41_controller.md R142 to R147). -/

/-- CTRL.EVAL.QUALIFY and CTRL.TRIGGER evaluate the predicate for true (R145, R147). -/
theorem exec_eq_whenEvaluated_true {i : Instr} (hi : i ∈ [Instr.ctrlEvalQualify, .ctrlTrigger]) :
    ∃ k, ∀ s, exec i s = whenEvaluated true k s := by
  simp only [List.mem_cons, List.not_mem_nil, or_false] at hi
  rcases hi with rfl | rfl
  · exact ⟨_, fun _ => rfl⟩
  · exact ⟨_, fun _ => rfl⟩

/-- CTRL.EVAL.FAIL evaluates it for false (R146). -/
theorem exec_fail_eq_whenEvaluated (s : State) :
    exec .ctrlEvalFail s = whenEvaluated false (fun s => .next (s.setRegs s.nextUnusedId 0 s.calRemaining)) s := rfl

/-- An operation that evaluates is refused where the cycle does not evaluate (log 8). -/
theorem whenEvaluated_refused {want : Bool} {k} {s : State} (h : ¬(s.outcome = .frame ∧ s.calRemaining = 0)) :
    whenEvaluated want k s = .refused .notSelected := if_neg h

/-- It is refused on the other value of the predicate, too. -/
theorem whenEvaluated_refused_of_not {want : Bool} {k} {s : State} (hq : triggerPredicate s = .ok !want) :
    whenEvaluated want k s = .refused .notSelected := by
  unfold whenEvaluated
  split
  · simp [hq]
  · rfl

/-- CTRL.COUNTDOWN is refused outside a FRAME cycle of a countdown (log 8). -/
theorem exec_countdown_refused {s : State} (h : ¬(s.outcome = .frame ∧ s.calRemaining ≠ 0)) :
    exec .ctrlCountdown s = .refused .notSelected := if_neg h

/-- The three evaluating operations are refused outside a FRAME cycle that evaluates (log 8). -/
theorem exec_evaluating_refused {s : State} (h : ¬(s.outcome = .frame ∧ s.calRemaining = 0)) :
    ∀ i ∈ [Instr.ctrlEvalQualify, .ctrlEvalFail, .ctrlTrigger], exec i s = .refused .notSelected := by
  intro i hi
  by_cases hfail : i = .ctrlEvalFail
  · rw [hfail, exec_fail_eq_whenEvaluated, whenEvaluated_refused h]
  · obtain ⟨k, hk⟩ := exec_eq_whenEvaluated_true (i := i) (by simpa [hfail] using hi)
    rw [hk, whenEvaluated_refused h]

/-- CTRL.TRIGGER is refused short of the run (log 8). -/
theorem exec_trigger_refused_of_short {s : State} (hqual : s.Qualifying) (hr : s.runLen.toNat + 1 < hystN) :
    exec .ctrlTrigger s = .refused .notSelected := by
  have hn : s.runReachesHyst = false := decide_eq_false (by omega)
  by_cases h : s.outcome = .frame ∧ s.calRemaining = 0
  · simp [exec, execCtrlTrigger, whenEvaluated, h, triggerPredicate_of_qualifying hqual, hn]
  · exact exec_evaluating_refused h _ (by simp)

/-- Settles O21, by the outcome, the countdown register, the predicate and the run length. -/
theorem unselectedControllerOperationsAreRefused : Obligations.UnselectedControllerOperationsAreRefused := by
  intro s
  refine ⟨fun ho => ?_, fun hcal => exec_countdown_refused fun h => h.2 hcal,
    fun hcal => exec_evaluating_refused fun h => hcal h.2, fun hfail i hi => ?_, fun hqual => ?_,
    exec_trigger_refused_of_short⟩
  · rw [List.forall_mem_cons]
    exact ⟨exec_countdown_refused fun h => ho h.1, exec_evaluating_refused fun h => ho h.1⟩
  · obtain ⟨k, hk⟩ := exec_eq_whenEvaluated_true hi
    rw [hk, whenEvaluated_refused_of_not (triggerPredicate_of_failing hfail)]
  · rw [exec_fail_eq_whenEvaluated, whenEvaluated_refused_of_not (triggerPredicate_of_qualifying hqual)]

/-- Settles O16: whether anything is written is whether the run is complete. -/
theorem qualifyCompletes : Obligations.QualifyCompletes := by
  intro s ho hcal hqual
  have hq := triggerPredicate_of_qualifying hqual
  refine ⟨fun hr => ?_, fun hr => ?_⟩
  · have hn : s.runReachesHyst = false := decide_eq_false (by simp only [hystN]; omega)
    refine ⟨s.setRegs s.nextUnusedId (s.runLen + 1) s.calRemaining,
      exec_qualify_eq_next.2 ⟨ho, hcal, hq, by rw [hn]; rfl⟩, ?_, rfl⟩
    rw [State.setRegs_runLen]
    bv_omega
  · have hn : s.runReachesHyst = true := decide_eq_true hr
    exact exec_qualify_eq_next.2 ⟨ho, hcal, hq, by rw [hn]; rfl⟩

/-- Settles O20: the trigger's next state is the command's with the three registers written. -/
theorem triggerIssuesCalBegin : Obligations.TriggerIssuesCalBegin := by
  intro s t h
  obtain ⟨-, -, -, -, rfl⟩ := exec_trigger_eq_next.1 h
  exact ⟨_, exec_cmdCalBegin _ _ s, rfl⟩

/-- Settles O23, from what each of the four operations writes. -/
theorem controllerOperationsFrame : Obligations.ControllerOperationsFrame := by
  intro i s t hi h
  simp only [List.mem_cons, List.not_mem_nil, or_false] at hi
  rcases hi with rfl | rfl | rfl | rfl
  · obtain ⟨-, -, rfl⟩ := exec_countdown_eq_next.1 h
    exact ⟨rfl, rfl, rfl, rfl, rfl, rfl, fun _ => rfl, fun _ => ⟨rfl, rfl, rfl, rfl, rfl, rfl⟩, fun _ => rfl, by simp⟩
  · obtain ⟨-, -, -, rfl⟩ := exec_qualify_eq_next.1 h
    split
    all_goals exact ⟨rfl, rfl, rfl, rfl, rfl, rfl, fun _ => rfl, fun _ => ⟨rfl, rfl, rfl, rfl, rfl, rfl⟩, nofun, fun _ => rfl⟩
  · obtain ⟨-, -, -, rfl⟩ := exec_fail_eq_next.1 h
    exact ⟨rfl, rfl, rfl, rfl, rfl, rfl, fun _ => rfl, fun _ => ⟨rfl, rfl, rfl, rfl, rfl, rfl⟩, nofun, fun _ => rfl⟩
  · obtain ⟨-, -, -, -, rfl⟩ := exec_trigger_eq_next.1 h
    exact ⟨rfl, rfl, rfl, rfl, rfl, rfl, fun _ => rfl, fun hne => absurd rfl hne, nofun, by simp⟩

end Sys2Proof.Machine

/-! ## Whole cycles: the order of R171, power-up, what is refused or faults, and what no output depends on -/

namespace Sys2Proof.Machine

/-! The step in the order of R171, and the buffer it starts with. -/

theorem andThen_assoc (o : Host.Outcome State Fault Refusal) (k k' : State → Host.Outcome State Fault Refusal) :
    andThen (andThen o k) k' = andThen o (fun s => andThen (k s) k') := by
  cases o <;> rfl

/-- Settles O7: the sequence of a cycle's operations, bracketed from the left. -/
theorem stepRunsTheDecodedOperation : Obligations.StepRunsTheDecodedOperation := by
  intro s bytes i hc hl hfetch hdecode
  rw [step_of_legal hc hl, hfetch]
  simp only [hdecode, runCycle, andThen_assoc]
  rfl

/-- Nothing was delivered to an empty buffer: below offset 40 every byte of it is POISON. -/
theorem read_nil {a : Nat} (h : a < pktLen) : Memory.read [] a = .error (.poisonByte a) := by
  simp [Memory.read, Memory.find, Nat.not_le.2 h]

/-- From offset 40 on there is no byte (R60). -/
theorem read_of_le {m : Memory} {a : Nat} (h : pktLen ≤ a) : Memory.read m a = .error (.noSuchOffset a) := if_pos h

/-- The bytes delivered are those given below `rd_count` (R40). -/
theorem CycleInput.delivered_getElem? (inp : CycleInput) (a : Nat) :
    inp.delivered[a]? = if a < inp.rdCount then inp.rdData[a]? else none := List.getElem?_take

/-- Settles O9: the buffer is empty in a reset cycle and else filled with what was delivered. -/
theorem cycleStartsWithTheReadRequest : Obligations.CycleStartsWithTheReadRequest := by
  intro s
  refine ⟨begun_calls s, wf_present _ _, fun a => ?_⟩
  by_cases ha : 40 ≤ a
  · rw [if_pos ha, read_of_le ha]
  have ha' : a < pktLen := by rw [pktLen]; omega
  rw [if_neg ha]
  cases hrst : s.nextInput.rst
  case true => rw [begun_of_rst hrst, read_nil ha', if_pos (.inl rfl)]
  rw [begun_of_not_rst hrst, read_fill _ _ ha', CycleInput.delivered_getElem?]
  by_cases hcount : s.nextInput.rdCount ≤ a
  · simp only [hcount, Nat.not_lt.2 hcount, if_false, Bool.false_eq_true, or_true, if_true]
  · cases s.nextInput.rdData[a]? <;>
      simp only [hcount, Nat.lt_of_not_le hcount, if_true, Bool.false_eq_true, or_self, if_false]

/-! Power-up, and where a cycle stops (R36, R45, R199). -/

theorem geomOfCode_of_le_one {g : Nat} (h : g ≤ 1) : geomOfCode g = some (if g = 0 then .wh else .rb) := by
  interval_cases g <;> rfl

theorem geomOfCode_of_one_lt {g : Nat} (h : 1 < g) : geomOfCode g = none := by
  match g with
  | 0 | 1 => omega
  | _ + 2 => rfl

/-- Settles O34: the layout code is checked first, then the two ranges. -/
theorem powerUpChecksTheConfiguration : Obligations.PowerUpChecksTheConfiguration := by
  intro a
  refine ⟨fun h => ?_, fun ⟨hlo, hhi, hdev, hgeom⟩ => ?_⟩
  · by_cases hgeom : a.geomLayout ≤ 1
    · rw [powerUp, geomOfCode_of_le_one hgeom]
      exact if_neg fun hr => h ⟨hr.1, hr.2.1, hr.2.2, hgeom⟩
    · rw [powerUp, geomOfCode_of_one_lt (Nat.lt_of_not_le hgeom)]
  · have hids : a.maxIds % 2 ^ 8 = a.maxIds := Nat.mod_eq_of_lt (by omega)
    have haddr : a.devAddr % 2 ^ 7 = a.devAddr := Nat.mod_eq_of_lt (by omega)
    refine ⟨_, by rw [powerUp, geomOfCode_of_le_one hgeom]; exact if_pos ⟨hlo, hhi, hdev⟩, rfl,
      State.phase_idle rfl rfl, ?_, rfl, ?_, ?_, rfl, rfl, rfl⟩
    · simp only [State.capacityExhausted, State.ofConfig, BitVec.toNat_ofNat, hids]
      rfl
    · rw [State.ofConfig, BitVec.toNat_ofNat, hids]
    · rw [State.ofConfig, BitVec.toNat_ofNat, haddr]

/-- Settles O35: MAX_IDS 0 is the one illegal configuration, and the start check is R44 written out. -/
theorem illegalStartStatesAreRefused : Obligations.IllegalStartStatesAreRefused := by
  intro s
  refine ⟨fun h => step_illegal_config ?_, fun hids h => step_illegal_start ?_ ?_⟩
  · simp [Config.legal, h]
  · exact Config.legal_iff.2 (by bv_omega)
  · rw [← Bool.not_eq_true, legalStart_iff]
    omega

/-- Settles O36: the first missing byte is the one the fetch stops at. -/
theorem missingByteOfAFullReadFaults : Obligations.MissingByteOfAFullReadFaults := fun _ => step_missing

/-- The cycle presented next is one of those listed or, past them, a free one, which delivers what it owes (log 3). -/
theorem nextInput_whole {s : State} (h : ∀ i ∈ s.inputs, i.whole = true) : s.nextInput.whole = true := by
  unfold State.nextInput
  split
  case h_1 inp _ heq => exact h inp (by simp [heq])
  case h_2 => exact freeInput_whole _

/-- From a legal state, with every full read whole, a run of any length goes through. -/
theorem statesAfter_total (n : Nat) {s : State} (hc : s.cfg.legal = true) (hl : s.legalStart = true)
    (hins : ∀ i ∈ s.inputs, i.whole = true) : ∃ ts, statesAfter n s = some ts ∧ ts.length = n := by
  induction n generalizing s with
  | zero => exact ⟨[], rfl, rfl⟩
  | succ n ih =>
    obtain ⟨t, hstep, -⟩ := step_total hc hl (nextInput_whole hins)
    obtain ⟨hcfg, hlegal⟩ := step_keeps_legal hstep
    obtain ⟨hinputs, -⟩ := step_takes_input hstep
    obtain ⟨ts, hts, hlen⟩ := ih (hcfg ▸ hc) hlegal fun i hi => hins i (List.mem_of_mem_tail (hinputs ▸ hi))
    exact ⟨t :: ts, by simp [statesAfter, hstep, hts], by simp [hlen]⟩

/-- Settles O37: the reset state of a legal configuration is a legal start. -/
theorem noReachableCycleStops : Obligations.NoReachableCycleStops := fun _ ins n hc hins =>
  statesAfter_total n hc (ofConfig_legalStart hc ins) hins

/-! Noninterference: the outputs of the last cycle, and the write's success (R30, R31, R42, R176). -/

/-- Two states step alike where legality and presented cycle agree and each kind of cycle of the one is the other's step. -/
theorem step_congr {s t : State} (hcfg : t.cfg = s.cfg) (hlegal : t.legalStart = s.legalStart)
    (hin : t.nextInput = s.nextInput)
    (h : s.cfg.legal = true → s.legalStart = true → s.nextInput.whole = true → ∀ u, StepCase s u → step t = .next u) :
    step s = step t := by
  cases hc : s.cfg.legal
  case false => rw [step_illegal_config hc, step_illegal_config (hcfg ▸ hc)]
  cases hl : s.legalStart
  case false => rw [step_illegal_start hc hl, step_illegal_start (hcfg ▸ hc) (hlegal.trans hl)]
  cases hw : s.nextInput.whole
  case true =>
    obtain ⟨u, hstep, hcase⟩ := step_total hc hl hw
    rw [hstep, h hc hl hw u hcase]
  case false =>
    simp only [CycleInput.whole, Bool.or_eq_false_iff, Bool.not_eq_false', decide_eq_false_iff_not, not_le] at hw
    obtain ⟨hf, hshort⟩ := hw
    rw [step_missing hc hl hf hshort, step_missing (hcfg ▸ hc) (hlegal.trans hl) (hin ▸ hf) (hin ▸ hshort), hin]

/-- The state `s` with the buffer, the outputs and the calls of `o`. -/
def State.withOutputsOf (s o : State) : State :=
  { s with
    buf := o.buf, outcome := o.outcome, frame := o.frame, crcOk := o.crcOk, cmdValid := o.cmdValid, cmdDev := o.cmdDev,
    cmdReg := o.cmdReg, cmdVal := o.cmdVal, calls := o.calls }

/-- Each kind of cycle clears or writes every output, so it is the same with any outputs before it. -/
theorem StepCase.step_withOutputsOf {s u : State} (hc : s.cfg.legal = true) (hl : s.legalStart = true)
    (hw : s.nextInput.whole = true) (o : State) (h : StepCase s u) : step (s.withOutputsOf o) = .next u := by
  have hbytes : s.nextInput.full = true → pktLen ≤ s.nextInput.rdData.length := fun hf => by
    simpa [CycleInput.whole, hf] using hw
  cases h with
  | rst h => exact step_rst (s := s.withOutputsOf o) hc hl h
  | short h hs => exact step_short (s := s.withOutputsOf o) hc hl h hs
  | error p hf hp he => exact step_error (s := s.withOutputsOf o) hc hl hf (hbytes hf) hp he
  | countdown p hf hp he h => exact step_countdown (s := s.withOutputsOf o) hc hl hf (hbytes hf) hp he h
  | fail p hf hp he h hq => exact step_fail (s := s.withOutputsOf o) hc hl hf (hbytes hf) hp he h hq
  | qualify p hf hp he h hq hr => exact step_qualify (s := s.withOutputsOf o) hc hl hf (hbytes hf) hp he h hq hr
  | trigger p hf hp he h hq hr => exact step_trigger (s := s.withOutputsOf o) hc hl hf (hbytes hf) hp he h hq hr

/-- Settles O38: the second state is the first with other outputs, which every kind of cycle clears or writes. -/
theorem nothingElseSurvivesACycle : Obligations.NothingElseSurvivesACycle := by
  intro s t hcfg hid hrun hcal hinputs hno
  have ht : s.withOutputsOf t = t := by
    rw [State.withOutputsOf, hcfg, hid, hrun, hcal, hinputs, hno]
  rw [← ht]
  exact step_congr rfl rfl rfl fun hc hl hw _ hcase => hcase.step_withOutputsOf hc hl hw t

/-- Settles O39: the start of a cycle, the fetch and the decoder read the four other inputs. -/
theorem writeResultIsReadByNoRule : Obligations.WriteResultIsReadByNoRule := by
  intro s inp w
  have hbegun : begun (s.presenting { inp with wrOk := w }) = begun (s.presenting inp) := rfl
  rw [step, step, cycle, cycle, hbegun]
  rfl

/-! Noninterference: the checksum and the ignored bytes (R42, R95, R123). -/

theorem slotSig_congr {k nf : Nat} {r r' : RawFace} (h : k < nf → r' = r) : slotSig k nf r' = slotSig k nf r := by
  by_cases hk : k < nf
  · rw [h hk]
  · rw [slotSig_of_le (by omega), slotSig_of_le (by omega)]

/-- A face record is its eight bytes. -/
theorem rawFaceAt_congr {bs bs' : List Byte} {b : Nat} (h : ∀ j < 8, byteAt bs' (b + j) = byteAt bs (b + j)) :
    rawFaceAt bs' b = rawFaceAt bs b := by
  have h0 : byteAt bs' b = byteAt bs b := h 0 (by omega)
  simp (disch := omega) only [rawFaceAt, h0, h]

/-- The packet's terms of the predicate read the face count and, on one face, slot 0 (R144). -/
theorem qualifies_congr (c : Config) {p p' : Packet} (hn : p'.numFaces = p.numFaces)
    (hslot : p.numFaces = 1 → p'.slot0 = p.slot0) : qualifies c p' = qualifies c p := by
  by_cases h1 : p.numFaces = 1
  · simp only [qualifies, hn, hslot h1]
  · simp only [qualifies, hn, beq_eq_false_iff_ne.2 h1, Bool.false_and]

section TwoReads
variable {s : State} {bs bs' : List Byte} (w : Bool) (hc : s.cfg.legal = true) (hl : s.legalStart = true)
  (hlen : bs.length = pktLen) (hlen' : bs'.length = pktLen) (hcount : byteAt bs' 4 = byteAt bs 4)
  (hslot : byteAt bs 4 = 1 → (packetFields bs').slot0 = (packetFields bs).slot0)
include hc hl hlen hlen' hcount hslot

/-- Two full reads with the same face count, and the same slot 0 if it is 1, answer next states that differ in `crc_ok` and
the frame at most; both frames are POISON or both are those of the packets, as the face count says. -/
theorem step_two_reads : ∃ t t',
    step (s.presenting ⟨false, true, pktLen, bs, w⟩) = .next t ∧ step (s.presenting ⟨false, true, pktLen, bs', w⟩) = .next t' ∧
    t' = { t with crcOk := t'.crcOk, frame := t'.frame } ∧
    ((t.frame = .poison ∧ t'.frame = .poison) ∨
      ((packetFields bs).facesIn 0 4 = true ∧ t.frame = .drives (frameOf (byteAt bs 4).toNat (packetFields bs)) ∧
        t'.frame = .drives (frameOf (byteAt bs 4).toNat (packetFields bs')))) := by
  have hp := parsePacket_take_of_length hlen
  have hp' := parsePacket_take_of_length hlen'
  have hn : (packetFields bs').numFaces = (packetFields bs).numFaces := hcount
  have hfaces : ∀ lo hi, (packetFields bs').facesIn lo hi = (packetFields bs).facesIn lo hi := fun lo hi => by
    rw [Packet.facesIn_def, Packet.facesIn_def, hn]
  have hqual : triggersOn (s.presenting ⟨false, true, pktLen, bs', w⟩) (packetFields bs') =
      triggersOn (s.presenting ⟨false, true, pktLen, bs, w⟩) (packetFields bs) :=
    congrArg (· && _) (qualifies_congr s.cfg hn hslot)
  cases he : (packetFields bs).facesIn 0 4
  case false =>
    exact ⟨_, _, step_error hc hl rfl hlen.ge hp he, step_error hc hl rfl hlen'.ge hp' ((hfaces 0 4).trans he), rfl,
      .inl ⟨rfl, rfl⟩⟩
  have he' := (hfaces 0 4).trans he
  have hframe' : frameOf (packetFields bs').numFaces.toNat (packetFields bs') =
      frameOf (byteAt bs 4).toNat (packetFields bs') := by
    rw [hn]
    rfl
  by_cases hcal : s.calRemaining = 0
  case neg =>
    exact ⟨_, _, step_countdown hc hl rfl hlen.ge hp he hcal, step_countdown hc hl rfl hlen'.ge hp' he' hcal, rfl,
      .inr ⟨rfl, rfl, congrArg Sig.drives hframe'⟩⟩
  cases hq : triggersOn (s.presenting ⟨false, true, pktLen, bs, w⟩) (packetFields bs)
  case false =>
    exact ⟨_, _, step_fail hc hl rfl hlen.ge hp he hcal hq, step_fail hc hl rfl hlen'.ge hp' he' hcal (hqual.trans hq), rfl,
      .inr ⟨rfl, rfl, congrArg Sig.drives hframe'⟩⟩
  by_cases hr : s.runLen.toNat + 1 < hystN
  case pos =>
    exact ⟨_, _, step_qualify hc hl rfl hlen.ge hp he hcal hq hr, step_qualify hc hl rfl hlen'.ge hp' he' hcal (hqual.trans hq) hr,
      rfl, .inr ⟨rfl, rfl, congrArg Sig.drives hframe'⟩⟩
  exact ⟨_, _, step_trigger hc hl rfl hlen.ge hp he hcal hq (Nat.le_of_not_lt hr),
    step_trigger hc hl rfl hlen'.ge hp' he' hcal (hqual.trans hq) (Nat.le_of_not_lt hr), rfl,
    .inr ⟨rfl, rfl, congrArg Sig.drives hframe'⟩⟩

end TwoReads

/-- Reads that agree below the checksum have the same fields but for it. -/
theorem packetFields_of_take_eq {bs bs' : List Byte} (h : bs.take 38 = bs'.take 38) :
    packetFields bs' = { packetFields bs with checksum := (packetFields bs').checksum } := by
  have hb : ∀ i < 38, byteAt bs' i = byteAt bs i := fun i hi => by
    simp only [byteAt, List.getD_eq_getElem?_getD]
    rw [← List.getElem?_take_of_lt hi, ← h, List.getElem?_take_of_lt hi]
  simp [packetFields, rawFaceAt, slotBase, faceRecLen, hb]

/-- Settles O40: the packets have one face count and one slot 0, and their frames one field apart. -/
theorem checksumNeverGates : Obligations.ChecksumNeverGates := by
  intro s bs bs' w hc hl hlen hlen' htake
  have hfields := packetFields_of_take_eq htake
  obtain ⟨t, t', ht, ht', heq, hframe⟩ :=
    step_two_reads w hc hl hlen hlen' (congrArg Packet.numFaces hfields :) fun _ => (congrArg Packet.slot0 hfields :)
  refine ⟨t, t', ht, ht', heq, ?_⟩
  rcases hframe with ⟨hf, hf'⟩ | ⟨-, hf, hf'⟩
  · rw [hf, hf']
  · rw [hf, hf', hfields]
    rfl

/-- Reads that agree on the bytes of the first `n` slots have the same record in each of them (R85). -/
theorem slot_congr_of_meaningful {bs bs' : List Byte} {n : Nat}
    (h : ∀ i, 5 ≤ i → i < 5 + 8 * n → byteAt bs' i = byteAt bs i) {k : Nat} (hk : k < n) :
    rawFaceAt bs' (slotBase k) = rawFaceAt bs (slotBase k) :=
  rawFaceAt_congr fun j hj => h _ (by simp only [slotBase, faceRecLen]; omega) (by simp only [slotBase, faceRecLen]; omega)

/-- Settles O41: the meaningful slots and the checksum are all that is left of the frame. -/
theorem ignoredBytesReachOnlyCrcAndDataSize : Obligations.IgnoredBytesReachOnlyCrcAndDataSize := by
  intro s bs bs' w hc hl hlen hlen' hagree
  have hbyte : ∀ i < 40, (i = 4 ∨ 38 ≤ i ∨ ((byteAt bs 4).toNat ≤ 4 ∧ 5 ≤ i ∧ i < 5 + 8 * (byteAt bs 4).toNat)) →
      byteAt bs' i = byteAt bs i := fun i hi h => by
    simp only [byteAt, List.getD_eq_getElem?_getD, hagree i hi h]
  have hslots : (byteAt bs 4).toNat ≤ 4 → ∀ k, k < (byteAt bs 4).toNat →
      rawFaceAt bs' (slotBase k) = rawFaceAt bs (slotBase k) := fun h4 k =>
    slot_congr_of_meaningful fun i hlo hhi => hbyte i (by omega) (.inr (.inr ⟨h4, hlo, hhi⟩))
  obtain ⟨t, t', ht, ht', heq, hframe⟩ := step_two_reads w hc hl hlen hlen' (hbyte 4 (by omega) (.inl rfl))
    fun h1 => hslots (by simp [h1]) 0 (by simp [h1])
  refine ⟨t, t', ht, ht', heq, ?_⟩
  rcases hframe with ⟨hf, hf'⟩ | ⟨hfaces, hf, hf'⟩
  · rw [hf, hf']
  · have hslots := hslots (Packet.faces_le_four hfaces)
    have hchecksum : (packetFields bs').checksum = (packetFields bs).checksum := by
      simp only [packetFields, hbyte 38 (by omega) (.inr (.inl (by omega))), hbyte 39 (by omega) (.inr (.inl (by omega)))]
    have h0 := slotSig_congr (hslots 0)
    have h1 := slotSig_congr (hslots 1)
    have h2 := slotSig_congr (hslots 2)
    have h3 := slotSig_congr (hslots 3)
    rw [hf, hf', dropDataSize, dropDataSize, frameOf, frameOf, hchecksum]
    exact congrArg Sig.drives (by simp only [packetFields, h0, h1, h2, h3])

end Sys2Proof.Machine

/-! ## The controller over whole cycles and runs (41_controller.md, 10_state.md): commands, hysteresis, capacity -/

namespace Sys2Proof.Machine

/-! When a cycle issues a command (R147, R148, R178). -/

theorem qualifyingInput_of_no_frame (c : Config) {inp : CycleInput} (h : inp.framePacket = none) :
    qualifyingInput c inp = false := by
  simp [qualifyingInput, h]

/-- A cycle issues a command exactly when the run is one short of complete outside a countdown, an identity is left, and the
presented frame qualifies. -/
theorem StepCase.cmdValid_iff {s t : State} (h : StepCase s t) (hl : s.legalStart = true) :
    t.cmdValid = true ↔ s.calRemaining = 0 ∧ s.runLen.toNat + 1 = 5 ∧ s.nextUnusedId.toNat < s.cfg.maxIds.toNat ∧
      qualifyingInput s.cfg s.nextInput = true := by
  obtain ⟨-, -, hrun, -, -⟩ := legalStart_iff.1 hl
  cases h with
  | rst h =>
    have hq := qualifyingInput_of_no_frame s.cfg (CycleInput.framePacket_of_not_full (CycleInput.not_full_of_rst h))
    simp [hq]
  | short _ hs => simp [qualifyingInput_of_no_frame s.cfg (CycleInput.framePacket_of_not_full hs)]
  | error p hf hp he =>
    have hq := qualifyingInput_of_no_frame s.cfg ((CycleInput.framePacket_of_full hf hp).trans (by simp [he]))
    simp [hq]
  | countdown p hf hp he h => exact ⟨nofun, fun ⟨h0, _⟩ => absurd h0 h⟩
  | fail p hf hp he h hq =>
    rw [triggersOn, Bool.and_eq_false_iff, decide_eq_false_iff_not] at hq
    rw [qualifyingInput_of_frame hf hp he]
    rcases hq with hq | hq <;> simp [hq]
  | qualify p hf hp he h hq hr =>
    have hshort : s.runLen.toNat + 1 ≠ 5 := Nat.ne_of_lt hr
    simp [hshort]
  | trigger p hf hp he h hq hr =>
    rw [triggersOn, Bool.and_eq_true, decide_eq_true_eq] at hq
    obtain ⟨hqual, hroom⟩ := hq
    have hfull : s.runLen.toNat + 1 = 5 := Nat.le_antisymm (by omega) hr
    simp [h, hfull, hroom, qualifyingInput_of_frame hf hp he, hqual]

/-- An identity below MAX_IDS has room for the increment (R154). -/
theorem toNat_succ_of_lt {v m : Byte} (h : v.toNat < m.toNat) : (v + 1).toNat = v.toNat + 1 := by
  have := m.isLt
  bv_omega

/-- What a cycle that issues a command shows and leaves (R147, R148). -/
theorem StepCase.of_cmdValid {s t : State} (h : StepCase s t) (hv : t.cmdValid = true) :
    t.outcome = .frame ∧ t.readCmd = .ok (s.cfg.devAddr, s.cfg.calReg, s.nextUnusedId) ∧
      t.regs = ⟨s.nextUnusedId.toNat + 1, 0, 20⟩ ∧
      t.calls = [.read s.cfg.devAddr 40, .write s.cfg.devAddr s.cfg.calReg s.nextUnusedId] := by
  cases h with
  | rst | short | error | countdown | fail | qualify => cases hv
  | trigger p hf hp he h hq hr =>
    rw [triggersOn, Bool.and_eq_true, decide_eq_true_eq] at hq
    refine ⟨rfl, State.readCmd_of_drives rfl rfl rfl, ?_, ?_⟩
    · simp only [State.regs, State.discardBuf_nextUnusedId, State.setRegs_nextUnusedId, toNat_succ_of_lt hq.2]
      rfl
    · simp [CycleInput.rst_of_full hf, pktLen]

/-- Settles O44: of the seven kinds of cycle the trigger alone issues a command. -/
theorem commandsComeOnlyFromTriggers : Obligations.CommandsComeOnlyFromTriggers := by
  intro s t hc hl hstep
  have hcase := step_cases hc hl hstep
  exact ⟨hcase.cmdValid_iff hl, hcase.of_cmdValid⟩

/-! The spacing of triggers (R155). -/

theorem byte_toNat_zero : (0 : Byte).toNat = 0 := rfl

/-- A command issued by a run's last cycle has had a FRAME cycle for each countdown step and each frame the run lacked. -/
theorem NoResetRun.frames_before_command {s : State} {ts : List State} (h : NoResetRun s ts) {t : State}
    (hlast : ts.getLast? = some t) (hv : t.cmdValid = true) :
    s.calRemaining.toNat + 5 ≤ frameCount ts + s.runLen.toNat := by
  induction h with
  | nil => cases hlast
  | @cons s u us hcase _ rest ih =>
    cases us with
    | nil =>
      obtain rfl : u = t := Option.some.inj hlast
      cases hcase with
      | skipped _ _ _ _ hno | counted _ _ _ _ hno | cleared _ _ _ _ _ hno | extended _ _ _ _ _ _ hno => simp [hno] at hv
      | triggered ho h0 h4 => simp [frameCount, ho, h0, h4]
    | cons v vs =>
      have ih := ih (by rwa [List.getLast?_cons_cons] at hlast)
      rw [frameCount_cons u]
      cases hcase with
      | skipped ho _ hrun hcal => simpa [ho, hrun, hcal] using ih
      | counted ho _ hrun hcal => simp only [ho, if_true, ← hrun]; omega
      | cleared ho h0 _ hrun hcal => simp only [ho, h0, hrun, hcal, if_true, byte_toNat_zero] at ih ⊢; omega
      | extended ho h0 _ _ hrun hcal => simp only [ho, h0, hcal, if_true, byte_toNat_zero] at ih ⊢; omega
      | triggered ho h0 _ _ _ hrun hcal => simp only [ho, h0, hrun, if_true, byte_toNat_zero] at ih ⊢; omega

/-- The clauses of the invariant between cycles. -/
theorem State.inv_iff {s : State} : s.inv = true ↔
    s.cfg.legal = true ∧ s.legalStart = true ∧ s.frameShape = true ∧ s.crcShape = true ∧ s.cmdShape = true ∧
      s.callShape = true ∧ s.buf = [] := by
  simp only [State.inv, Bool.and_eq_true, decide_eq_true_eq, and_assoc]

/-- A command just issued leaves the registers of a trigger (R147). -/
theorem regs_of_cmdShape {s : State} (h : s.cmdShape = true) (hv : s.cmdValid = true) :
    s.runLen.toNat = 0 ∧ s.calRemaining.toNat = 20 := by
  unfold State.cmdShape at h
  split at h
  · simp_all
  · simp only [Bool.and_eq_true, decide_eq_true_eq] at h
    exact ⟨h.1.2, h.2⟩
  · cases h

/-- Settles O49: after a trigger the whole countdown and a whole run are still to come. -/
theorem triggersAreAtLeast25FramesApart : Obligations.TriggersAreAtLeast25FramesApart := by
  intro n s ts t hinv hcmd hrun hreset hlast hv
  obtain ⟨-, hl, -, -, hshape, -, -⟩ := State.inv_iff.1 hinv
  obtain ⟨hrun0, hcal⟩ := regs_of_cmdShape hshape hcmd
  have := (noResetRun_of_statesAfter hl hrun hreset).frames_before_command hlast hv
  omega

/-! The last five FRAME cycles before a trigger (R155, R156). -/

theorem frameCycles_cons (t : State) (ts : List State) :
    frameCycles (t :: ts) = if t.outcome = .frame then t :: frameCycles ts else frameCycles ts := by
  simp [frameCycles, List.filter_cons]

theorem length_frameCycles (ts : List State) : (frameCycles ts).length = frameCount ts :=
  List.countP_eq_length_filter.symm

/-- The frame of a packet of one face has the packet's record in slot 0 (R110). -/
theorem frameOf_slot0_of_one {p : Packet} (h : p.numFaces = 1) :
    (frameOf p.numFaces.toNat p).slot0 = .drives (decodeFace p.slot0) := by
  simp [frameOf, slotSig, h]

/-- A frame shown shows a qualifying frame where its packet qualifies (R144). -/
theorem showsQualifying_of_shown {s t : State} {p : Packet} (hq : qualifies s.cfg p = true) (hcfg : t.cfg = s.cfg)
    (hf : t.frame = .drives (frameOf p.numFaces.toNat p)) : t.showsQualifying = true := by
  simp only [qualifies, Bool.and_eq_true, beq_iff_eq] at hq
  obtain ⟨⟨⟨hn, hconf⟩, hid⟩, hface⟩ := hq
  simp only [State.showsQualifying, hf, frameOf_slot0_of_one hn, frameOf_numFaces_self, hcfg]
  simp [decodeFace, hn, hconf, hid, hface]

/-- A FRAME cycle that leaves a run, or issues a command, shows a qualifying frame: every other clears the run, or counts
down, when the run is 0 (R44, R145 to R147). -/
theorem step_showsQualifying {s t : State} (hstep : step s = .next t) (ho : t.outcome = .frame)
    (h : t.runLen ≠ 0 ∨ t.cmdValid = true) : t.showsQualifying = true := by
  obtain ⟨hc, hl⟩ := legal_of_step hstep
  cases step_cases hc hl hstep with
  | rst | short | error => cases ho
  | countdown p hf hp he hcal =>
    obtain ⟨-, -, -, -, hzero⟩ := legalStart_iff.1 hl
    have hrun : s.runLen = 0 := by bv_omega
    simp [hrun] at h
  | fail => simp at h
  | qualify p hf hp he hcal hq | trigger p hf hp he hcal hq =>
    rw [triggersOn, Bool.and_eq_true] at hq
    exact showsQualifying_of_shown hq.1 rfl rfl

/-- What every step gives of its next state holds of all the states of a run. -/
theorem forall_of_statesAfter {P : State → Prop} (hP : ∀ s t, step s = .next t → P t) {n : Nat} {s : State}
    {ts : List State} (h : statesAfter n s = some ts) : ∀ t ∈ ts, P t := by
  induction n generalizing s ts with
  | zero =>
    obtain rfl : [] = ts := Option.some.inj h
    exact List.forall_mem_nil _
  | succ n ih =>
    obtain ⟨t, us, hstep, hrest, rfl⟩ := statesAfter_succ h
    exact List.forall_mem_cons.2 ⟨hP s t hstep, ih hrest⟩

/-- The last five FRAME cycles of a run that ends with a command show qualifying frames, if every FRAME cycle of it that
leaves a run or issues a command does. -/
theorem NoResetRun.last_five_qualify {s : State} {ts : List State} (h : NoResetRun s ts) {t : State}
    (hlast : ts.getLast? = some t) (hv : t.cmdValid = true)
    (hshows : ∀ u ∈ ts, u.outcome = .frame → u.runLen ≠ 0 ∨ u.cmdValid = true → u.showsQualifying = true) :
    ∀ u ∈ (frameCycles ts).drop ((frameCycles ts).length - 5), u.showsQualifying = true := by
  induction h with
  | nil => cases hlast
  | @cons s u us hcase _ rest ih =>
    obtain ⟨hu, hshows⟩ := List.forall_mem_cons.1 hshows
    cases us with
    | nil =>
      obtain rfl : u = t := Option.some.inj hlast
      rw [frameCycles_cons]
      split
      case isTrue ho => simpa [frameCycles] using hu ho (.inr hv)
      case isFalse => simp [frameCycles]
    | cons v vs =>
      rw [List.getLast?_cons_cons] at hlast
      have ih := ih hlast hshows
      have hcount := rest.frames_before_command hlast hv
      rw [← length_frameCycles] at hcount
      rw [frameCycles_cons]
      split
      case isFalse => exact ih
      case isTrue ho =>
        by_cases h5 : 5 ≤ (frameCycles (v :: vs)).length
        · rwa [List.length_cons, Nat.sub_add_comm h5, List.drop_succ_cons]
        · rw [Nat.sub_eq_zero_of_le (by omega), List.drop_zero] at ih
          rw [List.length_cons, Nat.sub_eq_zero_of_le (by omega), List.drop_zero]
          exact List.forall_mem_cons.2 ⟨hu ho (.inl fun h0 => by simp [h0] at hcount; omega), ih⟩

/-- Settles O50: the run of a trigger has five frames at least, and those that count toward it qualify. -/
theorem triggersOnlyAfterFiveConsecutiveQualifyingFrames :
    Obligations.TriggersOnlyAfterFiveConsecutiveQualifyingFrames := by
  intro n s ts t _ hl hrun0 hrun hreset hlast hv
  have hnoReset := noResetRun_of_statesAfter hl hrun hreset
  refine ⟨?_, hnoReset.last_five_qualify hlast hv (forall_of_statesAfter (fun _ _ => step_showsQualifying) hrun)⟩
  have := hnoReset.frames_before_command hlast hv
  rw [hrun0, byte_toNat_zero] at this
  rw [length_frameCycles]
  omega

/-! The trigger that five qualifying frames bring (R155, R156). -/

/-- A cycle that presents a qualifying frame presents a packet of one face that qualifies. -/
theorem qualifyingInput_eq_true {c : Config} {inp : CycleInput} (h : qualifyingInput c inp = true) :
    inp.full = true ∧ ∃ p, parsePacket (inp.rdData.take pktLen) = .ok p ∧ p.facesIn 0 4 = true ∧ qualifies c p = true := by
  cases hf : inp.full
  case false => rw [qualifyingInput_of_no_frame c (CycleInput.framePacket_of_not_full hf)] at h; cases h
  cases hp : parsePacket (inp.rdData.take pktLen) with
  | error r => simp [qualifyingInput, CycleInput.framePacket, hf, hp] at h
  | ok p =>
    cases he : p.facesIn 0 4
    case false =>
      rw [qualifyingInput_of_no_frame c ((CycleInput.framePacket_of_full hf hp).trans (by simp [he]))] at h
      cases h
    exact ⟨rfl, p, rfl, he, (qualifyingInput_of_frame hf hp he).symm.trans h⟩

/-- A skipped cycle writes no register and issues no command (R173, R174). -/
theorem step_of_skipped {s : State} (hc : s.cfg.legal = true) (hl : s.legalStart = true) (h : s.nextInput.skipped = true) :
    ∃ t, step s = .next t ∧ t.payload = none ∧ t.nextUnusedId = s.nextUnusedId ∧ t.runLen = s.runLen ∧
      t.calRemaining = s.calRemaining := by
  simp only [CycleInput.skipped, Bool.and_eq_true, Bool.not_eq_true', Option.isNone_iff_eq_none] at h
  obtain ⟨⟨hrst, hw⟩, hnone⟩ := h
  obtain ⟨t, hstep, hcase⟩ := step_total hc hl hw
  refine ⟨t, hstep, ?_⟩
  cases hcase with
  | rst h => simp [hrst] at h
  | short | error => exact ⟨rfl, rfl, rfl, rfl⟩
  | countdown p hf hp he | fail p hf hp he | qualify p hf hp he | trigger p hf hp he =>
    simp [CycleInput.framePacket_of_full hf hp, he] at hnone

section Qualifying
variable {s : State} (hc : s.cfg.legal = true) (hl : s.legalStart = true) (hcal : s.calRemaining = 0)
  (hroom : s.nextUnusedId.toNat < s.cfg.maxIds.toNat) (hq : qualifyingInput s.cfg s.nextInput = true)
include hc hl hcal hroom hq

/-- A qualifying cycle is a trigger or extends the run, as `run_len` says. -/
theorem step_of_qualifying : ∃ p,
    (s.runLen.toNat + 1 < hystN → step s = .next ((shown s p).setRegs s.nextUnusedId (s.runLen + 1) 0).discardBuf) ∧
    (hystN ≤ s.runLen.toNat + 1 → step s = .next (((shown s p).issueWrite s.cfg.calReg s.nextUnusedId).setRegs
      (s.nextUnusedId + 1) 0 (BitVec.ofNat 8 countdownN)).discardBuf) := by
  obtain ⟨hf, p, hp, he, hqual⟩ := qualifyingInput_eq_true hq
  have hw : pktLen ≤ s.nextInput.rdData.length := by
    have := parsePacket_length hp
    rw [List.length_take] at this
    omega
  have htrig : triggersOn s p = true := by simp [triggersOn, hqual, hroom]
  exact ⟨p, step_qualify hc hl hf hw hp he hcal htrig, step_trigger hc hl hf hw hp he hcal htrig⟩

/-- Short of the run it extends the run and issues no command (R145). -/
theorem step_of_qualifying_short (hr : s.runLen.toNat + 1 < hystN) :
    ∃ t, step s = .next t ∧ t.payload = none ∧ t.nextUnusedId = s.nextUnusedId ∧ t.runLen.toNat = s.runLen.toNat + 1 ∧
      t.calRemaining = 0 := by
  obtain ⟨p, hshort, -⟩ := step_of_qualifying hc hl hcal hroom hq
  refine ⟨_, hshort hr, rfl, rfl, ?_, rfl⟩
  rw [hystN] at hr
  rw [State.discardBuf_runLen, State.setRegs_runLen]
  bv_omega

/-- On the last frame of the run it is a trigger (R147). -/
theorem step_of_qualifying_last (hr : hystN ≤ s.runLen.toNat + 1) :
    ∃ t, step s = .next t ∧ t.payload = some s.nextUnusedId.toNat ∧ t.regs = ⟨s.nextUnusedId.toNat + 1, 0, 20⟩ := by
  obtain ⟨p, -, hlast⟩ := step_of_qualifying hc hl hcal hroom hq
  refine ⟨_, hlast hr, rfl, ?_⟩
  simp only [State.regs, State.discardBuf_nextUnusedId, State.setRegs_nextUnusedId, toNat_succ_of_lt hroom]
  rfl

end Qualifying

/-- Over cycles that are skipped or qualify, and that leave the run one frame short, no command is issued, and the next
qualifying cycle is the trigger. -/
theorem statesAfter_qualifying {front rest : List CycleInput} {last : CycleInput} {s : State} (hc : s.cfg.legal = true)
    (hl : s.legalStart = true) (hcal : s.calRemaining = 0) (hroom : s.nextUnusedId.toNat < s.cfg.maxIds.toNat)
    (hins : s.inputs = front ++ last :: rest) (hfront : ∀ i ∈ front, i.skipped = true ∨ qualifyingInput s.cfg i = true)
    (hcount : front.countP (qualifyingInput s.cfg) + s.runLen.toNat = 4) (hlast : qualifyingInput s.cfg last = true) :
    ∃ ts t, statesAfter (front.length + 1) s = some (ts ++ [t]) ∧ payloads ts = [] ∧
      t.payload = some s.nextUnusedId.toNat ∧ t.regs = ⟨s.nextUnusedId.toNat + 1, 0, 20⟩ := by
  induction front generalizing s with
  | nil =>
    have hin : s.nextInput = last := by simp [State.nextInput, hins]
    obtain ⟨t, hstep, hpay, hregs⟩ := step_of_qualifying_last hc hl hcal hroom (hin ▸ hlast)
      (by simpa [hystN] using hcount.ge)
    exact ⟨[], t, by simp [statesAfter, hstep], rfl, hpay, hregs⟩
  | cons inp front ih =>
    have hin : s.nextInput = inp := by simp [State.nextInput, hins]
    obtain ⟨hinp, hfront⟩ := List.forall_mem_cons.1 hfront
    have hnext : ∃ t, step s = .next t ∧ t.payload = none ∧ t.nextUnusedId = s.nextUnusedId ∧ t.calRemaining = 0 ∧
        front.countP (qualifyingInput s.cfg) + t.runLen.toNat = 4 := by
      cases hq : qualifyingInput s.cfg inp
      case true =>
        rw [List.countP_cons_of_pos hq] at hcount
        obtain ⟨t, hstep, hpay, hid, hrun, hcal'⟩ := step_of_qualifying_short hc hl hcal hroom (hin ▸ hq)
          (by rw [hystN]; omega)
        exact ⟨t, hstep, hpay, hid, hcal', by omega⟩
      case false =>
        rw [List.countP_cons_of_neg (by simp [hq])] at hcount
        obtain ⟨t, hstep, hpay, hid, hrun, hcal'⟩ := step_of_skipped hc hl (hin ▸ hinp.resolve_right (by simp [hq]))
        exact ⟨t, hstep, hpay, hid, hcal'.trans hcal, by rw [hrun]; exact hcount⟩
    obtain ⟨t, hstep, hpay, hid, hcal', hcount'⟩ := hnext
    obtain ⟨hcfg, hl'⟩ := step_keeps_legal hstep
    obtain ⟨hins', -⟩ := step_takes_input hstep
    rw [← hcfg] at hc hroom hfront hcount' hlast
    rw [← hid] at hroom ⊢
    obtain ⟨ts, u, hrun, hpays, hu⟩ := ih hc hl' hcal' hroom (by rw [hins', hins]; rfl) hfront hcount' hlast
    exact ⟨t :: ts, u, by simp [statesAfter, hstep, hrun], (payloads_cons_of_none hpay ts).trans hpays, hu⟩

/-- Settles O51, by induction on the cycles before the last. -/
theorem fiveQualifyingFramesTrigger : Obligations.FiveQualifyingFramesTrigger :=
  fun _ _ _ _ => statesAfter_qualifying

/-! Exhausted capacity (R153, R39). -/

/-- With the capacity exhausted a cycle that is no reset issues no command, leaves the identity register, and leaves a run
length of 0. -/
theorem RegsCase.of_capacityExhausted {s t : State} (h : RegsCase s t) (hcap : s.capacityExhausted = true) :
    t.payload = none ∧ t.nextUnusedId = s.nextUnusedId ∧ (s.runLen = 0 → t.runLen = 0) := by
  have hfull := State.capacityExhausted_iff.1 hcap
  cases h with
  | skipped _ hid hrun _ _ hp | counted _ hid hrun _ _ hp => exact ⟨hp, hid, hrun.trans⟩
  | cleared _ _ hid hrun _ _ hp => exact ⟨hp, hid, fun _ => hrun⟩
  | extended _ _ hroom | triggered _ _ _ hroom => omega

/-- Over a run without a reset the capacity stays exhausted. -/
theorem NoResetRun.of_capacityExhausted {s : State} {ts : List State} (h : NoResetRun s ts)
    (hcap : s.capacityExhausted = true) :
    payloads ts = [] ∧ ∀ t ∈ ts, t.capacityExhausted = true ∧ t.nextUnusedId = s.nextUnusedId ∧ (s.runLen = 0 → t.runLen = 0) := by
  induction h with
  | nil => exact ⟨rfl, List.forall_mem_nil _⟩
  | @cons s t us hcase hcfg _ ih =>
    obtain ⟨hpay, hid, hrun⟩ := hcase.of_capacityExhausted hcap
    have hcap' : t.capacityExhausted = true := by rwa [State.capacityExhausted, hcfg, hid]
    obtain ⟨ihpay, ihall⟩ := ih hcap'
    refine ⟨(payloads_cons_of_none hpay us).trans ihpay, List.forall_mem_cons.2 ⟨⟨hcap', hid, hrun⟩, fun u hu => ?_⟩⟩
    obtain ⟨hcapu, hidu, hrunu⟩ := ihall u hu
    exact ⟨hcapu, hidu.trans hid, fun h0 => hrunu (hrun h0)⟩

/-- Settles O47, by induction on the run. -/
theorem capacityExhaustionIsPermanent : Obligations.CapacityExhaustionIsPermanent := fun _ _ _ _ hl hcap hrun hreset =>
  (noResetRun_of_statesAfter hl hrun hreset).of_capacityExhausted hcap

end Sys2Proof.Machine

/-! ## The invariant between cycles (10_state.md), and the agreement with the spec's pseudocode (42_poll_cycle.md) -/

namespace Sys2Proof.Machine

/-! The invariant (R31, R36, R37, R40, R44), clause by clause after each kind of cycle. -/

section Shapes
variable {s t : State}

/-- `frame` is driven with its shape exactly in a FRAME cycle (R37, R40). -/
theorem StepCase.frameShape (h : StepCase s t) : t.frameShape = true := by
  cases h with
  | rst | short | error => rfl
  | countdown p _ _ he | fail p _ _ he | qualify p _ _ he | trigger p _ _ he => exact frameOf_shape he

/-- `crc_ok` is driven exactly where the read delivered forty bytes (R40, R113). -/
theorem StepCase.crcShape (h : StepCase s t) : t.crcShape = true := by
  cases h <;> rfl

/-- The command is that of a trigger just taken, or none (R40, R147). -/
theorem StepCase.cmdShape (h : StepCase s t) : t.cmdShape = true := by
  cases h with
  | rst | short | error | countdown | fail | qualify => rfl
  | trigger p hf hp he h hq hr =>
    rw [triggersOn, Bool.and_eq_true, decide_eq_true_eq] at hq
    simpa [State.cmdShape, countdownN] using (toNat_succ_of_lt hq.2).symm

/-- The calls are the read, and the write of the command if there is one; a reset cycle has none (R172, R176, R210). -/
theorem StepCase.callShape (h : StepCase s t) : t.callShape = true := by
  cases h with
  | rst h => simp [State.callShape, h]
  | short h => simp [State.callShape, State.writeCalls, h]
  | error p hf | countdown p hf | fail p hf | qualify p hf | trigger p hf =>
    simp [State.callShape, State.writeCalls, CycleInput.rst_of_full hf]

/-- The packet is discarded (R31). -/
theorem StepCase.buf_eq_nil (h : StepCase s t) : t.buf = [] := by
  cases h <;> rfl

end Shapes

/-- Settles O53: the registers' clauses are kept by every step, the others hold after every kind of cycle. -/
theorem everyStepKeepsTheInvariant : Obligations.EveryStepKeepsTheInvariant := by
  intro s t hinv hstep
  obtain ⟨hc, hl, -⟩ := State.inv_iff.1 hinv
  obtain ⟨hcfg, hlegal⟩ := step_keeps_legal hstep
  have hcase := step_cases hc hl hstep
  exact ⟨State.inv_iff.2 ⟨hcfg ▸ hc, hlegal, hcase.frameShape, hcase.crcShape, hcase.cmdShape, hcase.callShape,
    hcase.buf_eq_nil⟩, hcfg⟩

/-- The reset state of a legal configuration satisfies the invariant (R43, R211). -/
theorem ofConfig_inv {c : Config} (hc : c.legal = true) (ins : List CycleInput) :
    State.inv { State.ofConfig c with inputs := ins } = true :=
  State.inv_iff.2 ⟨hc, ofConfig_legalStart hc ins, rfl, rfl, rfl, rfl, rfl⟩

/-- Settles O52: the state right after reset is that of a legal configuration, with no cycle presented. -/
theorem resetStatesSatisfyTheInvariant : Obligations.ResetStatesSatisfyTheInvariant :=
  ⟨fun _ ins hc => ofConfig_inv hc ins, ofConfig_inv (c := Config.ofVectors) rfl []⟩

/-! The pseudocode `ctrl_step` (R140), branch by branch. -/

/-- The pseudocode's predicate on a frame shown is the machine's (R144): both ask the same of the packet's numbers. -/
theorem predicateRef_frameOf (s : State) (p : Packet) :
    predicateRef s.cfg s.regs (frameOf p.numFaces.toNat p) = triggersOn s p := by
  by_cases h1 : p.numFaces = 1
  · have hid : decide (p.slot0.idConfidence.toNat = 0) = (p.slot0.idConfidence == 0) := by
      rw [Bool.eq_iff_iff, decide_eq_true_iff, beq_iff_eq, ← BitVec.toNat_inj, byte_toNat_zero]
    have hface : decide (p.slot0.isFacing.toNat ≠ 0) = facing p.slot0.isFacing := by
      rw [Bool.eq_iff_iff, decide_eq_true_iff, facing_iff]
    simp only [predicateRef, frameOf_slot0_of_one h1, frameOf_numFaces_self, decodeFace, hid, hface]
    simp only [triggersOn, qualifies, h1]
    rfl
  · have hn : p.numFaces.toNat ≠ 1 := fun h => h1 (BitVec.eq_of_toNat_eq h)
    have hq : qualifies s.cfg p = false := by
      simp only [qualifies, beq_eq_false_iff_ne.2 h1, Bool.false_and]
    rw [triggersOn, hq, Bool.false_and, predicateRef, frameOf_numFaces_self]
    split <;> simp [hn]

section Pseudocode
variable {s : State} {p : Packet}

theorem ctrlStepRef_countdown (h : 0 < s.calRemaining.toNat) (f : Frame) :
    ctrlStepRef s.cfg s.regs f = (⟨s.nextUnusedId.toNat, s.runLen.toNat, s.calRemaining.toNat - 1⟩, none) := if_pos h

/-- Outside a countdown the step is decided by the new run length (R140). -/
theorem ctrlStepRef_evaluate (h : s.calRemaining = 0) (f : Frame) : ctrlStepRef s.cfg s.regs f =
    if hystN ≤ (if predicateRef s.cfg s.regs f then s.runLen.toNat + 1 else 0) then
      (⟨s.nextUnusedId.toNat + 1, 0, countdownN⟩, some s.nextUnusedId.toNat)
    else (⟨s.nextUnusedId.toNat, if predicateRef s.cfg s.regs f then s.runLen.toNat + 1 else 0, 0⟩, none) := by
  simp [ctrlStepRef, State.regs, h]

theorem ctrlStepRef_fail (h : s.calRemaining = 0) (hq : triggersOn s p = false) :
    ctrlStepRef s.cfg s.regs (frameOf p.numFaces.toNat p) = (⟨s.nextUnusedId.toNat, 0, 0⟩, none) := by
  simp [ctrlStepRef_evaluate h, predicateRef_frameOf, hq, hystN]

theorem ctrlStepRef_qualify (h : s.calRemaining = 0) (hq : triggersOn s p = true) (hr : s.runLen.toNat + 1 < hystN) :
    ctrlStepRef s.cfg s.regs (frameOf p.numFaces.toNat p) = (⟨s.nextUnusedId.toNat, s.runLen.toNat + 1, 0⟩, none) := by
  simp [ctrlStepRef_evaluate h, predicateRef_frameOf, hq, Nat.not_le.2 hr]

theorem ctrlStepRef_trigger (h : s.calRemaining = 0) (hq : triggersOn s p = true) (hr : hystN ≤ s.runLen.toNat + 1) :
    ctrlStepRef s.cfg s.regs (frameOf p.numFaces.toNat p) =
      (⟨s.nextUnusedId.toNat + 1, 0, countdownN⟩, some s.nextUnusedId.toNat) := by
  simp [ctrlStepRef_evaluate h, predicateRef_frameOf, hq, hr]

end Pseudocode

/-! The pseudocode `cycle` (R171), branch by branch. -/

section CycleRef
variable {c : Config} {r : Regs} {inp : CycleInput} {p : Packet}

theorem cycleRef_rst (h : inp.rst = true) :
    cycleRef c r inp = some (⟨1, 0, 0⟩, outRef c .reset .poison .poison none ⟨1, 0, 0⟩) := if_pos h

/-- A full read is a read that succeeded with forty bytes, in a cycle without reset (R90 step 3). -/
theorem CycleInput.full_iff : inp.full = true ↔ inp.rst = false ∧ inp.rdOk = true ∧ inp.rdCount = pktLen := by
  simp [CycleInput.full, and_assoc]

theorem cycleRef_short (h : inp.rst = false) (hs : inp.full = false) :
    cycleRef c r inp = some (r, outRef c .busUnavailable .poison .poison none r) := by
  have hshort : inp.rdOk = false ∨ inp.rdCount ≠ 40 := by
    by_contra hno
    simp only [not_or, Bool.not_eq_false, ne_eq, not_not] at hno
    simp [CycleInput.full_iff.2 ⟨h, hno⟩] at hs
  rw [cycleRef, if_neg (by simp [h]), if_pos hshort]

/-- The checksum of the bytes read is that of the packet's bytes (R113). -/
theorem crcRef_eq (hp : parsePacket (inp.rdData.take pktLen) = .ok p) :
    decide (crc16 c.crc16 ((inp.rdData.take pktLen).take 38) = p.checksum) = crcMatches c.crc16 p := by
  rw [Bool.eq_iff_iff, decide_eq_true_iff, crcMatches_iff hp]

section Full
variable (hf : inp.full = true) (hp : parsePacket (inp.rdData.take pktLen) = .ok p)
include hf hp

theorem cycleRef_error (he : p.facesIn 0 4 = false) : cycleRef c r inp =
    some (r, outRef c .faceCountOutOfRange .poison (.drives (crcMatches c.crc16 p)) none r) := by
  obtain ⟨hrst, hok, hcount⟩ := CycleInput.full_iff.1 hf
  have hfull : ¬(inp.rdOk = false ∨ inp.rdCount ≠ 40) := by simp [hok, hcount, pktLen]
  rw [cycleRef, if_neg (by simp [hrst]), if_neg hfull, ← crcRef_eq hp]
  rw [pktLen] at hp
  simp only [hp, decodeFrame_of_not_facesIn he]
  rfl

theorem cycleRef_frame (he : p.facesIn 0 4 = true) {r' : Regs} {cmd : Option Nat}
    (hctrl : ctrlStepRef c r (frameOf p.numFaces.toNat p) = (r', cmd)) : cycleRef c r inp =
    some (r', outRef c .frame (.drives (frameOf p.numFaces.toNat p)) (.drives (crcMatches c.crc16 p)) cmd r') := by
  obtain ⟨hrst, hok, hcount⟩ := CycleInput.full_iff.1 hf
  have hfull : ¬(inp.rdOk = false ∨ inp.rdCount ≠ 40) := by simp [hok, hcount, pktLen]
  rw [cycleRef, if_neg (by simp [hrst]), if_neg hfull, ← crcRef_eq hp]
  rw [pktLen] at hp
  simp only [hp, decodeFrame_of_facesIn he, hctrl]
  rfl

end Full

end CycleRef

/-! The outputs of a state are those the pseudocode gives for its registers. -/

theorem outputs_of_no_command {t : State} (hv : t.cmdValid = false) (hd : t.cmdDev = .poison) (hr : t.cmdReg = .poison)
    (hval : t.cmdVal = .poison) : t.outputs = outRef t.cfg t.outcome t.frame t.crcOk none t.regs := by
  rw [State.outputs, hv, hd, hr, hval]
  rfl

theorem outputs_of_command {t : State} {v : Byte} (hv : t.cmdValid = true) (hd : t.cmdDev = .drives t.cfg.devAddr)
    (hr : t.cmdReg = .drives t.cfg.calReg) (hval : t.cmdVal = .drives v) :
    t.outputs = outRef t.cfg t.outcome t.frame t.crcOk (some v.toNat) t.regs := by
  rw [State.outputs, hv, hd, hr, hval, outRef, BitVec.ofNat_toNat, BitVec.setWidth_eq]
  rfl

/-- Each kind of cycle leaves the registers and the outputs of its branch of the pseudocode. -/
theorem StepCase.cycleRef_eq {s t : State} (h : StepCase s t) :
    cycleRef s.cfg s.regs s.nextInput = some (t.regs, t.outputs) := by
  cases h with
  | rst h => rw [cycleRef_rst h, outputs_of_no_command rfl rfl rfl rfl]; rfl
  | short h hs => rw [cycleRef_short h hs, outputs_of_no_command rfl rfl rfl rfl]; rfl
  | error p hf hp he => rw [cycleRef_error hf hp he, outputs_of_no_command rfl rfl rfl rfl]; rfl
  | countdown p hf hp he h =>
    have hpos : 0 < s.calRemaining.toNat := by bv_omega
    have hpred : s.calRemaining.toNat - 1 = (s.calRemaining - 1).toNat := by bv_omega
    rw [cycleRef_frame hf hp he (ctrlStepRef_countdown hpos _), hpred, outputs_of_no_command rfl rfl rfl rfl]
    rfl
  | fail p hf hp he h hq =>
    rw [cycleRef_frame hf hp he (ctrlStepRef_fail h hq), outputs_of_no_command rfl rfl rfl rfl]
    rfl
  | qualify p hf hp he h hq hr =>
    have hsucc : s.runLen.toNat + 1 = (s.runLen + 1).toNat := by rw [hystN] at hr; bv_omega
    rw [cycleRef_frame hf hp he (ctrlStepRef_qualify h hq hr), hsucc, outputs_of_no_command rfl rfl rfl rfl]
    rfl
  | trigger p hf hp he h hq hr =>
    have hroom := hq
    rw [triggersOn, Bool.and_eq_true, decide_eq_true_eq] at hroom
    rw [cycleRef_frame hf hp he (ctrlStepRef_trigger h hq hr), ← toNat_succ_of_lt hroom.2, outputs_of_command rfl rfl rfl rfl]
    rfl

/-- Settles O54: a step that goes through is one of the kinds of cycle, and each is its branch of the pseudocode. -/
theorem stepAgreesWithTheSpecsPseudocode : Obligations.StepAgreesWithTheSpecsPseudocode := by
  intro s hc hl hw
  obtain ⟨t, hstep, hcase⟩ := step_total hc hl hw
  obtain ⟨hcfg, -⟩ := step_keeps_legal hstep
  obtain ⟨hinputs, hno⟩ := step_takes_input hstep
  exact ⟨t, hstep, hcase.cycleRef_eq, hcfg, hinputs, hno⟩

end Sys2Proof.Machine
